-- ==== Sys2Proof/Word.lean ====
section
/-! DEFINITION. The word types of the block and the operand enumerations of a command word
(00_scope.md R7, R9, R10; 30_encoding.md R74, R75). -/

namespace Sys2Proof

/-- A byte is 8 bits (R10). -/
abbrev Byte := BitVec 8

/-- A 16-bit quantity: a Modbus register, a CRC value, a length register (R7). -/
abbrev Half := BitVec 16

/-- A 32-bit quantity: a long, a host register, a command word (R7, R22, R71). -/
abbrev Word := BitVec 32

/-- The 64-bit result register RVAL (R7, R33). -/
abbrev Wide := BitVec 64

/-- The SGN operand (R74): 0 unsigned, 1 two's complement signed. -/
inductive Signedness
  | unsigned
  | signed
  deriving DecidableEq, Repr

/-- The two byte orders of an unpack (R122). -/
inductive Endian
  | big
  | little
  deriving DecidableEq, Repr

/-- The BO operand (R75), with the assembler names `be`, `le`, `bes`, `les`. -/
inductive ByteOrder
  | big
  | little
  | bigSwap
  | littleSwap
  deriving DecidableEq, Repr

/-- BO 2 and 3 swap byte pairs before the unpack (R75, R123). -/
def ByteOrder.swaps : ByteOrder → Bool
  | .big => false
  | .little => false
  | .bigSwap => true
  | .littleSwap => true

end Sys2Proof
end

