-- ==== Sys2Proof/Syntax.lean ====
section
/-! DEFINITION. The commands of the block, one constructor per row of spec/opcode_table.json
(30_encoding.md R78). -/

namespace Sys2Proof

/-- A command. `d` is the decimals operand (R73), `sg` the signedness (R74), `bo` the byte
order (R75). -/
inductive Instr
  /-- CRC: the CRC of IBUF (R105). -/
  | crc
  /-- CRCAPP: append the CRC (R106). -/
  | crcApp
  /-- CRCCHK: verify the trailing CRC (R107). -/
  | crcChk
  /-- BUILD: build a request frame (R141). -/
  | build
  /-- PARSE: validate a response and extract its payload (R143). -/
  | parse
  /-- SWAP: swap byte pairs (R121). -/
  | swap
  /-- DEC16: decode one register from PBUF (R126). -/
  | dec16 (d : Byte) (sg : Signedness) (bo : ByteOrder)
  /-- DEC32: decode one long from PBUF (R127). -/
  | dec32 (d : Byte) (sg : Signedness) (bo : ByteOrder)
  /-- RDEC16: parse a response and decode one register (R161). -/
  | rdec16 (d : Byte) (sg : Signedness) (bo : ByteOrder)
  /-- RDEC32: parse a response and decode one long (R162). -/
  | rdec32 (d : Byte) (sg : Signedness) (bo : ByteOrder)
  deriving DecidableEq, Repr

end Sys2Proof
end

