-- ==== Sys2Proof/WellFormed.lean ====
section
/-! DEFINITION. Which commands have an encoding: the 16-bit decodes take BIG and LITTLE only
(30_encoding.md R80). -/

namespace Sys2Proof

/-- The command has a command word: DEC16 and RDEC16 do not take a swapping byte order (R80). -/
def Instr.wf : Instr → Bool
  | .crc => true
  | .crcApp => true
  | .crcChk => true
  | .build => true
  | .parse => true
  | .swap => true
  | .dec16 _ _ bo => !bo.swaps
  | .dec32 _ _ _ => true
  | .rdec16 _ _ bo => !bo.swaps
  | .rdec32 _ _ _ => true

end Sys2Proof
end

