-- ==== Sys2Proof/Decode.lean ====
section
/-! DEFINITION. The command word: its fields, the decoder of 30_encoding.md R85, the opcode map of
R78 and the encoder of R83. -/

namespace Sys2Proof

/-- Why a word decodes as Illegal (R187). -/
inductive DecodeError
  /-- A bit of RSV [31:19] is set (R76). -/
  | reservedBits
  /-- OP is 0x00 or 0x0B..0xFF (R79). -/
  | opcode
  /-- A bit of [18:8] is set in a command that uses none of them (R77). -/
  | unusedField
  /-- BO is 2 or 3 in DEC16 or RDEC16 (R80). -/
  | byteOrder
  deriving DecidableEq, Repr

/-- OP, bits [7:0] (R72). -/
def opField (w : Word) : Byte := w.extractLsb' 0 8

/-- DEC, bits [15:8] (R73). -/
def decField (w : Word) : Byte := w.extractLsb' 8 8

/-- SGN, bit [16] (R74). -/
def sgnField (w : Word) : BitVec 1 := w.extractLsb' 16 1

/-- BO, bits [18:17] (R75). -/
def boField (w : Word) : BitVec 2 := w.extractLsb' 17 2

/-- RSV, bits [31:19] (R76). -/
def rsvField (w : Word) : BitVec 13 := w.extractLsb' 19 13

/-- Bits [18:8], which a command without operands needs to be 0 (R77). -/
def operandBits (w : Word) : BitVec 11 := w.extractLsb' 8 11

/-- SGN's values (R74). -/
def Signedness.ofBits (b : BitVec 1) : Signedness :=
  if b = 1#1 then .signed else .unsigned

/-- SGN's encoding (R74). -/
def Signedness.bits : Signedness → BitVec 1
  | .unsigned => 0
  | .signed => 1

/-- BO's values (R75). -/
def ByteOrder.ofBits (b : BitVec 2) : ByteOrder :=
  match b.toNat with
  | 0 => .big
  | 1 => .little
  | 2 => .bigSwap
  | _ => .littleSwap

/-- BO's encoding (R75). -/
def ByteOrder.bits : ByteOrder → BitVec 2
  | .big => 0
  | .little => 1
  | .bigSwap => 2
  | .littleSwap => 3

/-- A command that uses no operand field (R77). -/
def decodePlain (w : Word) (i : Instr) : Except DecodeError Instr :=
  if operandBits w = 0 then .ok i else .error .unusedField

/-- A command with the operands DEC, SGN and BO (R73 to R75). -/
def decodeOperands (w : Word) (mk : Byte → Signedness → ByteOrder → Instr) : Instr :=
  mk (decField w) (.ofBits (sgnField w)) (.ofBits (boField w))

/-- A command with operands that takes BO 0 and 1 only (R80). -/
def decodeNarrow (w : Word) (mk : Byte → Signedness → ByteOrder → Instr) :
    Except DecodeError Instr :=
  if (ByteOrder.ofBits (boField w)).swaps then .error .byteOrder else .ok (decodeOperands w mk)

/-- The decoder, total on every 32-bit word, in the order of R85. -/
def decode (w : Word) : Except DecodeError Instr :=
  if rsvField w ≠ 0 then .error .reservedBits
  else
    match (opField w).toNat with
    | 0x01 => decodePlain w .crc
    | 0x02 => decodePlain w .crcApp
    | 0x03 => decodePlain w .crcChk
    | 0x04 => decodePlain w .build
    | 0x05 => decodePlain w .parse
    | 0x06 => decodePlain w .swap
    | 0x07 => decodeNarrow w .dec16
    | 0x08 => .ok (decodeOperands w .dec32)
    | 0x09 => decodeNarrow w .rdec16
    | 0x0A => .ok (decodeOperands w .rdec32)
    | _ => .error .opcode

/-- The decoder on a word numbered as spec/opcode_table.json numbers its bits, cut to `nbits` bits.
A command is one 32-bit register value (R82), so no byte order enters. -/
def decodeTableWord (nbits w : Nat) : Option Instr :=
  match decode (BitVec.ofNat 32 (w % 2 ^ nbits)) with
  | .ok i => some i
  | .error _ => none

/-- The OP value of a command (R78). -/
def Instr.opcode : Instr → Byte
  | .crc => 0x01
  | .crcApp => 0x02
  | .crcChk => 0x03
  | .build => 0x04
  | .parse => 0x05
  | .swap => 0x06
  | .dec16 _ _ _ => 0x07
  | .dec32 _ _ _ => 0x08
  | .rdec16 _ _ _ => 0x09
  | .rdec32 _ _ _ => 0x0A

/-- `OP | d << 8 | sgn << 16 | bo << 17` (R71, R83). -/
def encodeFields (op d : Byte) (sg : Signedness) (bo : ByteOrder) : Word :=
  op.setWidth 32 ||| (d.setWidth 32 <<< 8) ||| (sg.bits.setWidth 32 <<< 16) |||
    (bo.bits.setWidth 32 <<< 17)

/-- The word of a command (R83). -/
def encode : Instr → Word
  | .crc => encodeFields 0x01 0 .unsigned .big
  | .crcApp => encodeFields 0x02 0 .unsigned .big
  | .crcChk => encodeFields 0x03 0 .unsigned .big
  | .build => encodeFields 0x04 0 .unsigned .big
  | .parse => encodeFields 0x05 0 .unsigned .big
  | .swap => encodeFields 0x06 0 .unsigned .big
  | .dec16 d sg bo => encodeFields 0x07 d sg bo
  | .dec32 d sg bo => encodeFields 0x08 d sg bo
  | .rdec16 d sg bo => encodeFields 0x09 d sg bo
  | .rdec32 d sg bo => encodeFields 0x0A d sg bo

/-- A row of the opcode map R78: a word selects it when `w AND mask = pattern`. -/
structure OpcodeRow where
  pattern : Word
  mask : Word
  deriving DecidableEq, Repr

/-- The word selects the row (R78). -/
def OpcodeRow.selects (r : OpcodeRow) (w : Word) : Bool := w &&& r.mask == r.pattern

/-- The opcode map of R78, in its order. -/
def opcodeRows : List OpcodeRow :=
  [ { pattern := 0x00000001, mask := 0xFFFFFFFF },
    { pattern := 0x00000002, mask := 0xFFFFFFFF },
    { pattern := 0x00000003, mask := 0xFFFFFFFF },
    { pattern := 0x00000004, mask := 0xFFFFFFFF },
    { pattern := 0x00000005, mask := 0xFFFFFFFF },
    { pattern := 0x00000006, mask := 0xFFFFFFFF },
    { pattern := 0x00000007, mask := 0xFFFC00FF },
    { pattern := 0x00000008, mask := 0xFFF800FF },
    { pattern := 0x00000009, mask := 0xFFFC00FF },
    { pattern := 0x0000000A, mask := 0xFFF800FF } ]

end Sys2Proof
end

