-- ==== Sys2Proof/Config.lean ====
section
/-! DEFINITION. The implementation parameters (00_scope.md R7) and the values the spec leaves free
(93_implementation_defined.md I2, I4). -/

namespace Sys2Proof

/-- The parameters that may differ from one instance to another (R7, R8, I5, I6). -/
structure Params where
  /-- BUF_CAP: the capacity in bytes of each buffer. -/
  bufCap : Nat
  /-- PAYLOAD_SKIP: the leading payload bytes the composite commands skip. -/
  payloadSkip : Nat
  deriving DecidableEq, Repr

/-- The legal values of R7: BUF_CAP in 8..4096, PAYLOAD_SKIP 0 or 1. -/
abbrev Params.Legal (p : Params) : Prop :=
  8 ≤ p.bufCap ∧ p.bufCap ≤ 4096 ∧ p.payloadSkip ≤ 1

/-- The normative values of R7. -/
def Config.normative : Params := { bufCap := 1024, payloadSkip := 0 }

/-- SLAVE_RESET (R7). -/
def Config.slaveReset : Byte := 1

/-- FC_RESET (R7). -/
def Config.fcReset : Byte := 4

/-- CRC_POLY, the reflected polynomial (R7). -/
def Config.crcPoly : Half := 0xA001

/-- CRC_INIT (R7). -/
def Config.crcInit : Half := 0xFFFF

/-- The command-set version, PARAM[31:24] (R2, R36). -/
def Config.version : Byte := 1

/-- The byte the `n`-th host read of an unwritten buffer byte returns (R56, I2). FREE VALUE, log 4:
no body, so nothing can be proved of it. -/
opaque Config.freeByte : Nat → Byte

/-- FLOAT_OF(RVAL, RDEC), the host's conversion of a scaled result (R125, I4). FREE VALUE, log 11:
no body, so no rounding can be proved of it. -/
opaque Config.floatOf : Int → Nat → ℚ

end Sys2Proof
end

