-- ==== Sys2Proof/Machine/State.lean ====
section
/-! DEFINITION. The state of one block instance (10_state.md R20 to R41), the inputs it receives, and
the reasons a step can stop. -/

namespace Sys2Proof.Machine

/-- The three byte buffers (R37). -/
inductive Buf
  | ibuf
  | obuf
  | pbuf
  deriving DecidableEq, Repr

/-- The fifteen 32-bit host registers (R22). -/
inductive Reg
  | cmd
  | status
  | diag
  | slave
  | fc
  | regAddr
  | regCount
  | ilen
  | olen
  | plen
  | rvalLo
  | rvalHi
  | rinfo
  | crcv
  | param
  deriving DecidableEq, Repr

/-- A buffer's written bytes by index, indices strictly rising. An index that is not listed is marked
"unwritten" (R41): it has no value, so no entry can equal what an unlisted index reads as (log 3). -/
abbrev Memory := List Host.Cell

/-- What the outside can do to the block between two of its transitions: the platform's reset (R210)
and the host's accesses (R51). An access of 8 or 32 bits has a constructor of its own; `bits` is the
width of any other access, and which bits such a write carries can never matter (log 9). -/
inductive Input
  | reset
  | read32 (off : Half)
  | write32 (off : Half) (v : Word)
  | read8 (off : Half)
  | write8 (off : Half) (v : Byte)
  | readOther (off : Half) (bits : Nat)
  | writeOther (off : Half) (bits : Nat)
  deriving DecidableEq, Repr

/-- What a host read returns: a register's word or a buffer's byte (R51). -/
inductive Reply
  | word (v : Word)
  | byte (v : Byte)
  deriving DecidableEq, Repr

/-- Why a step stops with a fault. -/
inductive Fault
  /-- `fault Unwritten` (20_memory.md R55): raised by every command that reads a buffer byte marked
  unwritten; it names the command and the byte. SAFE: an implementation reads whatever the cell
  holds and goes on. -/
  | unwritten (cmd : Instr) (b : Buf) (i : Nat)
  deriving DecidableEq, Repr

/-- Why a step is refused. -/
inductive Refusal
  /-- Raised by `exec`'s arm of an instruction without a meaning; no arm does so. SAFE. -/
  | notModelled (mnemonic : String)
  /-- Raised by a host access of another width than 32 bits at a register offset (R51). SAFE: an
  implementation leaves the state unchanged. -/
  | registerWidth (off : Half)
  /-- Raised by a 32-bit host access inside the register file at an offset that is no multiple of 4
  (R51). SAFE, as above. -/
  | misaligned (off : Half)
  /-- Raised by a host access of another width than 8 bits at a buffer offset (R51). SAFE, as above. -/
  | bufferWidth (off : Half)
  /-- Raised by a host access at an unmapped offset (R50, R51). SAFE, as above. -/
  | unmapped (off : Half)
  /-- Raised by a host write to an R register (R39). SAFE, as above. -/
  | readOnlyRegister (r : Reg)
  /-- Raised by a host write to an OBUF byte (R39). SAFE, as above. -/
  | readOnlyBuffer (i : Nat)
  deriving DecidableEq, Repr

/-- The state. The first eighteen fields after `params` are the record of R20, register fields apart,
so reserved bits read 0 by construction (R22, I9). `params`, `pending`, `replies` and `draws` are the
model's own (log 1, 2, 4, 5). -/
structure State where
  /-- The instance's parameters (R7); nothing writes them. -/
  params : Params
  /-- CMD (R23). -/
  cmd : Word
  /-- STATUS.ERR (R24). -/
  err : BitVec 4
  /-- STATUS.LASTOP (R24). -/
  lastOp : Byte
  /-- DIAG.EXPV (R25). -/
  expv : Half
  /-- DIAG.RCVV (R25). -/
  rcvv : Half
  /-- SLAVE (R26). -/
  slave : Byte
  /-- FC (R27). -/
  fc : Byte
  /-- REGADDR (R28). -/
  regAddr : Half
  /-- REGCOUNT (R29). -/
  regCount : Half
  /-- ILEN (R30). -/
  ilen : Half
  /-- OLEN (R31). -/
  olen : Half
  /-- PLEN (R32). -/
  plen : Half
  /-- RVAL (R33). -/
  rval : Wide
  /-- RINFO.RDEC (R34). -/
  rdec : Byte
  /-- RINFO.RKIND (R34). -/
  rkind : BitVec 1
  /-- CRCV (R35). -/
  crcv : Half
  /-- IBUF (R37). -/
  ibuf : Memory
  /-- OBUF (R37). -/
  obuf : Memory
  /-- PBUF (R37). -/
  pbuf : Memory
  /-- The inputs still to come, oldest first (log 2). -/
  pending : List Input
  /-- What host reads returned, newest first (log 5). -/
  replies : List Reply
  /-- How many free bytes host reads have drawn (R56, log 4). -/
  draws : Nat
  deriving DecidableEq, Repr

/-- The outcome of a command, an access or a step. -/
abbrev Result := Host.Outcome State Fault Refusal

/-- The block right after reset, with the normative parameters (R210, R212) and no input to come. -/
def State.reset : State :=
  { params := Config.normative
    cmd := 0
    err := 0
    lastOp := 0
    expv := 0
    rcvv := 0
    slave := Config.slaveReset
    fc := Config.fcReset
    regAddr := 0
    regCount := 0
    ilen := 0
    olen := 0
    plen := 0
    rval := 0
    rdec := 0
    rkind := 0
    crcv := 0
    ibuf := []
    obuf := []
    pbuf := []
    pending := []
    replies := []
    draws := 0 }

end Sys2Proof.Machine
end

