-- ==== Sys2Proof/Machine/Operands.lean ====
section
/-! DEFINITION. Byte sequences and the decode forms: slices (00_scope.md R10), the pair swap
(41_codec.md R120), the unpacks (R122, R123) and signedness (R124). -/

namespace Sys2Proof.Machine

/-- `v` truncated to a 16-bit register (R11). -/
def half (n : Nat) : Half := BitVec.ofNat 16 n

/-- `s[i:j]`, the bytes i..j-1 (R10). -/
def slice (s : List Byte) (i j : Nat) : List Byte := (s.take j).drop i

/-- `s[k]`; every use has checked `k < len(s)` (R10). -/
def byteAt (s : List Byte) (k : Nat) : Byte := s.getD k 0

/-- A 16-bit value sent low byte first (R89): `lo | hi << 8`. -/
def fromWire (lo hi : Byte) : Half := lo.setWidth 16 ||| (hi.setWidth 16 <<< 8)

/-- A 16-bit value as the two bytes on the wire, low byte first (R89). -/
def toWire (c : Half) : List Byte := [c.extractLsb' 0 8, c.extractLsb' 8 8]

/-- A 16-bit value as two bytes, high byte first (R57, R86). -/
def toBigEndian (v : Half) : List Byte := [v.extractLsb' 8 8, v.extractLsb' 0 8]

/-- The pair swap (R120); a last unpaired byte, which every caller excludes, stays. -/
def swapPairs : List Byte → List Byte
  | a :: b :: rest => b :: a :: swapPairs rest
  | rest => rest

/-- The byte order within an unpack that BO selects (R75, R123). -/
def endianOf : ByteOrder → Endian
  | .big => .big
  | .little => .little
  | .bigSwap => .big
  | .littleSwap => .little

/-- `{a, b}`: the concatenation with `a` in the high bits (R9). -/
def pair (a b : Byte) : Half := (a.setWidth 16 <<< 8) ||| b.setWidth 16

/-- `{a, b, c, d}`: the concatenation with `a` in the high bits (R9). -/
def quad (a b c d : Byte) : Word :=
  (a.setWidth 32 <<< 24) ||| (b.setWidth 32 <<< 16) ||| (c.setWidth 32 <<< 8) ||| d.setWidth 32

/-- `unpack16` (R122). -/
def unpack16 (b : List Byte) : Endian → Half
  | .big => pair (byteAt b 0) (byteAt b 1)
  | .little => pair (byteAt b 1) (byteAt b 0)

/-- The 32-bit unpack in one of the two plain orders (R123). -/
def join32 (b : List Byte) : Endian → Word
  | .big => quad (byteAt b 0) (byteAt b 1) (byteAt b 2) (byteAt b 3)
  | .little => quad (byteAt b 3) (byteAt b 2) (byteAt b 1) (byteAt b 0)

/-- `unpack32`: the swap variants swap first and unpack second (R123, 90_conflicts.md C6). -/
def unpack32 (b : List Byte) (bo : ByteOrder) : Word :=
  join32 (if bo.swaps then swapPairs b else b) (endianOf bo)

/-- `value(p, SGN)` (R124). -/
def signedValue {n : Nat} (p : BitVec n) : Signedness → Int
  | .unsigned => (p.toNat : Int)
  | .signed => p.toInt

end Sys2Proof.Machine
end

