-- ==== Sys2Proof/Machine/CrcEngine.lean ====
section
/-! DEFINITION. The CRC-16/Modbus function (40_crc.md R100 to R102). -/

namespace Sys2Proof.Machine

/-- One reflected shift step (R101). -/
def crcShift (c : Half) : Half :=
  if c.getLsbD 0 then (c >>> 1) ^^^ Config.crcPoly else c >>> 1

/-- `n` shift steps (R101). -/
def crcShifts : Nat → Half → Half
  | 0, c => c
  | n + 1, c => crcShifts n (crcShift c)

/-- The entry `T[i]` of the lookup table, generated from the polynomial (R101, log 10). -/
def crcTable (i : Byte) : Half := crcShifts 8 (i.setWidth 16)

/-- `crc_step(r, b) = (r >> 8) XOR T[(r XOR b) AND 0xFF]` (R100). -/
def crcStep (r : Half) (b : Byte) : Half :=
  (r >>> 8) ^^^ crcTable ((r ^^^ b.setWidth 16).setWidth 8)

/-- `crc16(s)`: the fold of `crc_step` from 0xFFFF, no final XOR (R102). -/
def crc16 (s : List Byte) : Half := s.foldl crcStep Config.crcInit

/-- `crcbytes(s)`: the CRC as it goes on the wire (R89, R102). -/
def crcBytes (s : List Byte) : List Byte := toWire (crc16 s)

end Sys2Proof.Machine
end

