-- ==== Sys2Proof/Machine/Flags.lean ====
section
/-! DEFINITION. The block's condition code: error codes and classes (60_exceptions.md R181, R201), the
packing of the STATUS, DIAG, RINFO and PARAM words (10_state.md R22), and RKIND (R34). -/

namespace Sys2Proof.Machine

/-- The outcomes of R181. NoResponse is the host's and never written by the block (R189). -/
inductive ErrCode
  | ok
  | tooShort
  | checksumMismatch
  | addressMismatch
  | codecError
  | noResponse
  | illegalCommand
  | capacityError
  deriving DecidableEq, Repr

/-- The code an outcome has in STATUS.ERR (R181). -/
def ErrCode.code : ErrCode → BitVec 4
  | .ok => 0
  | .tooShort => 1
  | .checksumMismatch => 2
  | .addressMismatch => 3
  | .codecError => 4
  | .noResponse => 5
  | .illegalCommand => 6
  | .capacityError => 7

/-- The outcome a code stands for; 8..15 are reserved (R181). -/
def ErrCode.ofCode (c : BitVec 4) : Option ErrCode :=
  match c.toNat with
  | 0 => some .ok
  | 1 => some .tooShort
  | 2 => some .checksumMismatch
  | 3 => some .addressMismatch
  | 4 => some .codecError
  | 5 => some .noResponse
  | 6 => some .illegalCommand
  | 7 => some .capacityError
  | _ => none

/-- The classes a host tells apart (R201). -/
inductive ErrClass
  | success
  | connectivity
  | protocolIntegrity
  | decode
  | hostMisuse
  deriving DecidableEq, Repr

/-- The class of an outcome (R201). -/
def ErrCode.errClass : ErrCode → ErrClass
  | .ok => .success
  | .tooShort => .protocolIntegrity
  | .checksumMismatch => .protocolIntegrity
  | .addressMismatch => .protocolIntegrity
  | .codecError => .decode
  | .noResponse => .connectivity
  | .illegalCommand => .hostMisuse
  | .capacityError => .hostMisuse

/-- STATUS: ERR [3:0], LASTOP [15:8], the rest 0 (R22, R24). -/
def State.statusWord (s : State) : Word :=
  s.err.setWidth 32 ||| (s.lastOp.setWidth 32 <<< 8)

/-- DIAG: EXPV [15:0], RCVV [31:16] (R25). -/
def State.diagWord (s : State) : Word :=
  s.expv.setWidth 32 ||| (s.rcvv.setWidth 32 <<< 16)

/-- RINFO: RDEC [7:0], RKIND [8], the rest 0 (R34). -/
def State.rinfoWord (s : State) : Word :=
  s.rdec.setWidth 32 ||| (s.rkind.setWidth 32 <<< 8)

/-- PARAM: BUF_CAP [15:0], PAYLOAD_SKIP [23:16], version [31:24] (R36). -/
def State.paramWord (s : State) : Word :=
  (BitVec.ofNat 16 s.params.bufCap).setWidth 32 |||
    ((BitVec.ofNat 8 s.params.payloadSkip).setWidth 32 <<< 16) |||
    (Config.version.setWidth 32 <<< 24)

/-- RKIND: 0 for an integer result, 1 for a scaled one (R34, R125). -/
def kindOf (d : Byte) : BitVec 1 := if d = 0 then 0 else 1

end Sys2Proof.Machine
end

