-- ==== Sys2Proof/Machine/Ops.lean ====
section
/-! DEFINITION. The operations the commands share: buffers (20_memory.md R52 to R55), register
writes, and the ends of a command: `raise`, the block's error entry, and `succeed`
(60_exceptions.md R182, R190). There is no return from an error (R195). -/

namespace Sys2Proof.Machine

/-- The canonical form: indices strictly rising (log 3). -/
def Memory.wf : Memory → Bool
  | [] => true
  | c :: rest => rest.all (fun d => decide (c.1 < d.1)) && Memory.wf rest

/-- Every listed index lies below the capacity (R37, R54). -/
def Memory.below (cap : Nat) (m : Memory) : Bool := m.all fun c => decide (c.1 < cap)

/-- The byte at an index, none where it is marked unwritten (R41). -/
def Memory.read : Memory → Nat → Option Byte
  | [], _ => none
  | c :: rest, a => if a = c.1 then some c.2 else Memory.read rest a

/-- One byte written and marked written (R53). -/
def Memory.write : Memory → Nat → Byte → Memory
  | [], a, b => [(a, b)]
  | c :: rest, a, b =>
    if a < c.1 then (a, b) :: c :: rest
    else if a = c.1 then (a, b) :: rest
    else c :: Memory.write rest a b

/-- `MemWrite`'s bytes from index `i` on (R53). -/
def Memory.writeBytes : Memory → Nat → List Byte → Memory
  | m, _, [] => m
  | m, i, b :: bs => Memory.writeBytes (Memory.write m i b) (i + 1) bs

/-- `MemRead`'s `n` bytes from index `i` on, or the first unwritten index (R52, R55, log 21). -/
def Memory.readBytes (m : Memory) : Nat → Nat → Except Nat (List Byte)
  | _, 0 => .ok []
  | i, n + 1 =>
    match Memory.read m i with
    | none => .error i
    | some b =>
      match Memory.readBytes m (i + 1) n with
      | .ok bs => .ok (b :: bs)
      | .error j => .error j

/-- The contents of a buffer (R37). -/
def State.buf (s : State) : Buf → Memory
  | .ibuf => s.ibuf
  | .obuf => s.obuf
  | .pbuf => s.pbuf

/-- The state with a buffer's contents replaced. -/
def State.setBuf (s : State) (b : Buf) (m : Memory) : State :=
  match b with
  | .ibuf => { s with ibuf := m }
  | .obuf => { s with obuf := m }
  | .pbuf => { s with pbuf := m }

/-- `MemWrite(B, i, s)` (R53). -/
def State.memWrite (s : State) (b : Buf) (i : Nat) (bytes : List Byte) : State :=
  s.setBuf b (Memory.writeBytes (s.buf b) i bytes)

/-- `MemRead(B, 0, n)` and what the command `c` does with the bytes; an unwritten byte is
`fault Unwritten` (R52, R55). -/
def memRead (c : Instr) (s : State) (b : Buf) (n : Nat) (k : List Byte → Result) : Result :=
  match Memory.readBytes (s.buf b) 0 n with
  | .ok bytes => k bytes
  | .error i => .fault (.unwritten c b i)

/-- OBUF and OLEN written by a command that produces `bytes` (R31, R53). -/
def State.putOutput (s : State) (bytes : List Byte) : State :=
  { s.memWrite .obuf 0 bytes with olen := half bytes.length }

/-- PBUF and PLEN written with a payload (R32, R143). -/
def State.putPayload (s : State) (p : List Byte) : State :=
  { s.memWrite .pbuf 0 p with plen := half p.length }

/-- CRCV written (R35). -/
def State.putCrc (s : State) (c : Half) : State := { s with crcv := c }

/-- RVAL, RDEC and RKIND written (R125). -/
def State.putResult (s : State) (v : Int) (d : Byte) : State :=
  { s with rval := BitVec.ofInt 64 v, rdec := d, rkind := kindOf d }

/-- STATUS.ERR and DIAG written (R182). -/
def State.record (s : State) (e : ErrCode) (exp rcv : Half) : State :=
  { s with err := e.code, expv := exp, rcvv := rcv }

/-- `raise E(exp, rcv)`: error entry, which ends the command and changes nothing else (R182, R194). -/
def raise (s : State) (e : ErrCode) (exp rcv : Half) : Result := .next (s.record e exp rcv)

/-- `succeed` (R190). -/
def succeed (s : State) : Result := .next (s.record .ok 0 0)

/-- IllegalCommand(0, OP) (R70, R187). -/
def raiseIllegal (s : State) (op : Byte) : Result := raise s .illegalCommand 0 (op.setWidth 16)

/-- CMD and STATUS.LASTOP written as a command word arrives (R70). -/
def State.issue (s : State) (w : Word) : State := { s with cmd := w, lastOp := opField w }

/-- What a host read returned goes to the host; the block does not change (R60, log 5). -/
def State.reply (s : State) (r : Reply) : State := { s with replies := r :: s.replies }

/-- One free byte drawn (R56, log 4). -/
def State.draw (s : State) : State := { s with draws := s.draws + 1 }

/-- Reset: every register at its reset value, every buffer byte unwritten, PARAM unchanged (R210,
R212). What is no state of the block stays: the inputs to come, the replies, the draws (log 6). -/
def State.platformReset (s : State) : State :=
  { State.reset with
    params := s.params, pending := s.pending, replies := s.replies, draws := s.draws }

end Sys2Proof.Machine
end

