-- ==== Sys2Proof/Machine/Codec.lean ====
section
/-! DEFINITION. The numeric codec: SWAP, DEC16, DEC32 (41_codec.md R120 to R127). -/

namespace Sys2Proof.Machine

/-- SWAP (R121). An odd length is refused before any byte is read (60_exceptions.md R192). -/
def execSwap (s : State) : Result :=
  if s.params.bufCap < s.ilen.toNat then raise s .capacityError (half s.params.bufCap) s.ilen
  else if s.ilen.getLsbD 0 then raise s .codecError 0 s.ilen
  else
    memRead .swap s .ibuf s.ilen.toNat fun bytes => succeed (s.putOutput (swapPairs bytes))

/-- The front half of DEC16 and DEC32: a payload of exactly `n` bytes read from PBUF (R126, R127). -/
def readPayload (i : Instr) (n : Nat) (s : State) (k : List Byte → Result) : Result :=
  if s.params.bufCap < s.plen.toNat then raise s .capacityError (half s.params.bufCap) s.plen
  else if s.plen.toNat ≠ n then raise s .codecError (half n) s.plen
  else memRead i s .pbuf n k

/-- DEC16 (R126). A swapping byte order, which no command word carries here, is IllegalCommand (R80,
log 7). -/
def execDec16 (d : Byte) (sg : Signedness) (bo : ByteOrder) (s : State) : Result :=
  if bo.swaps then raiseIllegal s (Instr.dec16 d sg bo).opcode
  else
    readPayload (.dec16 d sg bo) 2 s fun b =>
      succeed (s.putResult (signedValue (unpack16 b (endianOf bo)) sg) d)

/-- DEC32 (R127). -/
def execDec32 (d : Byte) (sg : Signedness) (bo : ByteOrder) (s : State) : Result :=
  readPayload (.dec32 d sg bo) 4 s fun b =>
    succeed (s.putResult (signedValue (unpack32 b bo) sg) d)

end Sys2Proof.Machine
end

