-- ==== Sys2Proof/Machine/Crc.lean ====
section
/-! DEFINITION. The CRC family: CRC, CRCAPP, CRCCHK (40_crc.md R105 to R107). -/

namespace Sys2Proof.Machine

/-- CRC (R105). -/
def execCrc (s : State) : Result :=
  if s.params.bufCap < s.ilen.toNat then raise s .capacityError (half s.params.bufCap) s.ilen
  else
    memRead .crc s .ibuf s.ilen.toNat fun bytes =>
      succeed ((s.putOutput (crcBytes bytes)).putCrc (crc16 bytes))

/-- CRCAPP (R106). -/
def execCrcApp (s : State) : Result :=
  if s.params.bufCap - 2 < s.ilen.toNat then
    raise s .capacityError (half (s.params.bufCap - 2)) s.ilen
  else
    memRead .crcApp s .ibuf s.ilen.toNat fun bytes =>
      succeed ((s.putOutput (bytes ++ crcBytes bytes)).putCrc (crc16 bytes))

/-- The CRC over all bytes but the last two, and the CRC received in those two (R107, R142). -/
def trailingCrc (bytes : List Byte) : Half × Half :=
  let n := bytes.length
  (crc16 (slice bytes 0 (n - 2)), fromWire (byteAt bytes (n - 2)) (byteAt bytes (n - 1)))

/-- CRCCHK (R107). -/
def execCrcChk (s : State) : Result :=
  if s.params.bufCap < s.ilen.toNat then raise s .capacityError (half s.params.bufCap) s.ilen
  else if s.ilen.toNat < 2 then raise s .tooShort 2 s.ilen
  else
    memRead .crcChk s .ibuf s.ilen.toNat fun bytes =>
      let (c, r) := trailingCrc bytes
      if c ≠ r then raise s .checksumMismatch c r else succeed (s.putCrc c)

end Sys2Proof.Machine
end

