-- ==== Sys2Proof/Machine/Frame.lean ====
section
/-! DEFINITION. The frame builder and parser: BUILD and PARSE (42_frame.md R140 to R145). -/

namespace Sys2Proof.Machine

/-- The six bytes of a request before its CRC (R86, R140). -/
def requestBody (sa fc : Byte) (a n : Half) : List Byte :=
  [sa, fc] ++ toBigEndian a ++ toBigEndian n

/-- BUILD (R141). -/
def execBuild (s : State) : Result :=
  let body := requestBody s.slave s.fc s.regAddr s.regCount
  succeed ((s.putOutput (body ++ crcBytes body)).putCrc (crc16 body))

/-- What a `raise` records (R182). -/
structure Raised where
  error : ErrCode
  exp : Half
  rcv : Half
  deriving DecidableEq, Repr

/-- A response that passed its checks: the payload and the CRC (R142). -/
structure Response where
  payload : List Byte
  crc : Half
  deriving DecidableEq, Repr

/-- `parse(raw, ea)`: length, then CRC, then address (R142). It reads neither byte 1 as a count nor
FC (R144). -/
def parseResponse (raw : List Byte) (ea : Byte) : Except Raised Response :=
  let n := raw.length
  if n < 4 then .error { error := .tooShort, exp := 4, rcv := half n }
  else
    let (c, r) := trailingCrc raw
    if c ≠ r then .error { error := .checksumMismatch, exp := c, rcv := r }
    else if byteAt raw 0 ≠ ea then
      .error
        { error := .addressMismatch, exp := ea.setWidth 16, rcv := (byteAt raw 0).setWidth 16 }
    else .ok { payload := slice raw 2 (n - 2), crc := c }

/-- The command ends with the parser's error, or goes on with the response (R142, R182). -/
def afterParse (s : State) (k : Response → Result) : Except Raised Response → Result
  | .error e => raise s e.error e.exp e.rcv
  | .ok p => k p

/-- The front half of PARSE, RDEC16 and RDEC32: the length checks, the read of IBUF and the parse
(R143, R161, R162). -/
def readResponse (i : Instr) (s : State) (k : Response → Result) : Result :=
  if s.params.bufCap < s.ilen.toNat then raise s .capacityError (half s.params.bufCap) s.ilen
  else if s.ilen.toNat < 4 then raise s .tooShort 4 s.ilen
  else
    memRead i s .ibuf s.ilen.toNat fun raw => afterParse s k (parseResponse raw s.slave)

/-- PARSE (R143). -/
def execParse (s : State) : Result :=
  readResponse .parse s fun p => succeed ((s.putPayload p.payload).putCrc p.crc)

end Sys2Proof.Machine
end

