-- ==== Sys2Proof/Machine/Facade.lean ====
section
/-! DEFINITION. The composite commands RDEC16 and RDEC32: parse, then decode (43_facade.md R160 to
R162). -/

namespace Sys2Proof.Machine

/-- The back half of a composite command: the payload must hold `n` bytes after the skipped ones; then
PBUF, PLEN, CRCV and the result are written together, or nothing but STATUS and DIAG (R160, R161). -/
def decodeResponse (n : Nat) (value : List Byte → Int) (d : Byte) (s : State) (p : Response) :
    Result :=
  let k := s.params.payloadSkip
  if p.payload.length ≠ n + k then raise s .codecError (half (n + k)) (half p.payload.length)
  else
    succeed
      (((s.putPayload p.payload).putCrc p.crc).putResult (value (slice p.payload k (k + n))) d)

/-- RDEC16 (R161). A swapping byte order, which no command word carries here, is IllegalCommand (R80,
log 7). -/
def execRdec16 (d : Byte) (sg : Signedness) (bo : ByteOrder) (s : State) : Result :=
  if bo.swaps then raiseIllegal s (Instr.rdec16 d sg bo).opcode
  else
    readResponse (.rdec16 d sg bo) s
      (decodeResponse 2 (fun b => signedValue (unpack16 b (endianOf bo)) sg) d s)

/-- RDEC32 (R162). -/
def execRdec32 (d : Byte) (sg : Signedness) (bo : ByteOrder) (s : State) : Result :=
  readResponse (.rdec32 d sg bo) s
    (decodeResponse 4 (fun b => signedValue (unpack32 b bo) sg) d s)

end Sys2Proof.Machine
end

