-- ==== Sys2Proof/Machine/Dispatch.lean ====
section
/-! DEFINITION. `execute(c)` of 30_encoding.md R70: one arm per command (R78). CMD and STATUS.LASTOP
are written before it, by `State.issue`. -/

namespace Sys2Proof.Machine

def exec (i : Instr) (s : State) : Host.Outcome State Fault Refusal :=
  match i with
  | .crc => Sys2Proof.Machine.execCrc s
  | .crcApp => Sys2Proof.Machine.execCrcApp s
  | .crcChk => Sys2Proof.Machine.execCrcChk s
  | .build => Sys2Proof.Machine.execBuild s
  | .parse => Sys2Proof.Machine.execParse s
  | .swap => Sys2Proof.Machine.execSwap s
  | .dec16 d sg bo => Sys2Proof.Machine.execDec16 d sg bo s
  | .dec32 d sg bo => Sys2Proof.Machine.execDec32 d sg bo s
  | .rdec16 d sg bo => Sys2Proof.Machine.execRdec16 d sg bo s
  | .rdec32 d sg bo => Sys2Proof.Machine.execRdec32 d sg bo s

end Sys2Proof.Machine
end

