-- ==== Sys2Proof/Machine/HostAccess.lean ====
section
/-! DEFINITION. The host interface: the address map (20_memory.md R50), which accesses are admitted
(R51), register reads and writes (10_state.md R22, R38, R39), buffer byte reads and writes (R56), and
the issue of a command (30_encoding.md R70). -/

namespace Sys2Proof.Machine

/-- A register's offset (R22). -/
def Reg.offset : Reg → Half
  | .cmd => 0x00
  | .status => 0x04
  | .diag => 0x08
  | .slave => 0x0C
  | .fc => 0x10
  | .regAddr => 0x14
  | .regCount => 0x18
  | .ilen => 0x1C
  | .olen => 0x20
  | .plen => 0x24
  | .rvalLo => 0x28
  | .rvalHi => 0x2C
  | .rinfo => 0x30
  | .crcv => 0x34
  | .param => 0x38

/-- The register at a word index of the register file (R22). -/
def Reg.ofIndex : Nat → Option Reg
  | 0 => some .cmd
  | 1 => some .status
  | 2 => some .diag
  | 3 => some .slave
  | 4 => some .fc
  | 5 => some .regAddr
  | 6 => some .regCount
  | 7 => some .ilen
  | 8 => some .olen
  | 9 => some .plen
  | 10 => some .rvalLo
  | 11 => some .rvalHi
  | 12 => some .rinfo
  | 13 => some .crcv
  | 14 => some .param
  | _ => none

/-- The host offset of a buffer's byte 0 (R50). -/
def Buf.base : Buf → Nat
  | .ibuf => 0x1000
  | .obuf => 0x2000
  | .pbuf => 0x3000

/-- What stands at a host offset (R50). -/
inductive Location
  /-- The first byte of a register. -/
  | register (r : Reg)
  /-- Another byte of the register file. -/
  | insideRegister
  /-- Byte `i` of a buffer. -/
  | byte (b : Buf) (i : Nat)
  | unmapped
  deriving DecidableEq, Repr

/-- The offset lies in the buffer's window, below BUF_CAP (R50). -/
def inWindow (p : Params) (b : Buf) (a : Nat) : Bool :=
  decide (b.base ≤ a) && decide (a < b.base + p.bufCap)

/-- The address map (R50). -/
def locate (p : Params) (off : Half) : Location :=
  let a := off.toNat
  if a < 0x3C then
    if a % 4 = 0 then
      match Reg.ofIndex (a / 4) with
      | some r => .register r
      | none => .unmapped
    else .insideRegister
  else if inWindow p .ibuf a then .byte .ibuf (a - Buf.base .ibuf)
  else if inWindow p .obuf a then .byte .obuf (a - Buf.base .obuf)
  else if inWindow p .pbuf a then .byte .pbuf (a - Buf.base .pbuf)
  else .unmapped

/-- A host read of a register; bits outside its fields read 0 (R22). -/
def readRegister (s : State) : Reg → Word
  | .cmd => s.cmd
  | .status => s.statusWord
  | .diag => s.diagWord
  | .slave => s.slave.setWidth 32
  | .fc => s.fc.setWidth 32
  | .regAddr => s.regAddr.setWidth 32
  | .regCount => s.regCount.setWidth 32
  | .ilen => s.ilen.setWidth 32
  | .olen => s.olen.setWidth 32
  | .plen => s.plen.setWidth 32
  | .rvalLo => s.rval.extractLsb' 0 32
  | .rvalHi => s.rval.extractLsb' 32 32
  | .rinfo => s.rinfoWord
  | .crcv => s.crcv.setWidth 32
  | .param => s.paramWord

/-- A host write of a word to CMD: store it, then perform the command it encodes (R70). -/
def issueCommand (w : Word) (s : State) : Result :=
  match decode w with
  | .error _ => raiseIllegal (s.issue w) (opField w)
  | .ok i => exec i (s.issue w)

/-- A host write to a register: RW registers keep their field's bits (R38), R registers refuse (R39),
CMD performs a command (R23). -/
def writeRegister (r : Reg) (v : Word) (s : State) : Result :=
  match r with
  | .cmd => issueCommand v s
  | .slave => .next { s with slave := v.setWidth 8 }
  | .fc => .next { s with fc := v.setWidth 8 }
  | .regAddr => .next { s with regAddr := v.setWidth 16 }
  | .regCount => .next { s with regCount := v.setWidth 16 }
  | .ilen => .next { s with ilen := v.setWidth 16 }
  | .plen => .next { s with plen := v.setWidth 16 }
  | .status => .refused (.readOnlyRegister .status)
  | .diag => .refused (.readOnlyRegister .diag)
  | .olen => .refused (.readOnlyRegister .olen)
  | .rvalLo => .refused (.readOnlyRegister .rvalLo)
  | .rvalHi => .refused (.readOnlyRegister .rvalHi)
  | .rinfo => .refused (.readOnlyRegister .rinfo)
  | .crcv => .refused (.readOnlyRegister .crcv)
  | .param => .refused (.readOnlyRegister .param)

/-- A host read of a buffer byte: the last value written, or a fresh free byte (R56). -/
def readBufferByte (b : Buf) (i : Nat) (s : State) : State :=
  match Memory.read (s.buf b) i with
  | some v => s.reply (.byte v)
  | none => (s.draw).reply (.byte (Config.freeByte s.draws))

/-- A host write of a buffer byte; OBUF refuses (R39, R41). -/
def writeBufferByte (b : Buf) (i : Nat) (v : Byte) (s : State) : Result :=
  match b with
  | .ibuf => .next (s.memWrite .ibuf i [v])
  | .pbuf => .next (s.memWrite .pbuf i [v])
  | .obuf => .refused (.readOnlyBuffer i)

/-- A 32-bit host read (R51). -/
def hostRead32 (off : Half) (s : State) : Result :=
  match locate s.params off with
  | .register r => .next (s.reply (.word (readRegister s r)))
  | .insideRegister => .refused (.misaligned off)
  | .byte _ _ => .refused (.bufferWidth off)
  | .unmapped => .refused (.unmapped off)

/-- A 32-bit host write (R51). -/
def hostWrite32 (off : Half) (v : Word) (s : State) : Result :=
  match locate s.params off with
  | .register r => writeRegister r v s
  | .insideRegister => .refused (.misaligned off)
  | .byte _ _ => .refused (.bufferWidth off)
  | .unmapped => .refused (.unmapped off)

/-- An 8-bit host read (R51). -/
def hostRead8 (off : Half) (s : State) : Result :=
  match locate s.params off with
  | .register _ => .refused (.registerWidth off)
  | .insideRegister => .refused (.registerWidth off)
  | .byte b i => .next (readBufferByte b i s)
  | .unmapped => .refused (.unmapped off)

/-- An 8-bit host write (R51). -/
def hostWrite8 (off : Half) (v : Byte) (s : State) : Result :=
  match locate s.params off with
  | .register _ => .refused (.registerWidth off)
  | .insideRegister => .refused (.registerWidth off)
  | .byte b i => writeBufferByte b i v s
  | .unmapped => .refused (.unmapped off)

/-- A host access of any other width: never admitted (R51). -/
def hostOther (off : Half) (s : State) : Result :=
  match locate s.params off with
  | .register _ => .refused (.registerWidth off)
  | .insideRegister => .refused (.registerWidth off)
  | .byte _ _ => .refused (.bufferWidth off)
  | .unmapped => .refused (.unmapped off)

/-- One input, taken as one atomic transition (R59, R210). -/
def perform (a : Input) (s : State) : Result :=
  match a with
  | .reset => .next s.platformReset
  | .read32 off => hostRead32 off s
  | .write32 off v => hostWrite32 off v s
  | .read8 off => hostRead8 off s
  | .write8 off v => hostWrite8 off v s
  | .readOther off _ => hostOther off s
  | .writeOther off _ => hostOther off s

end Sys2Proof.Machine
end

