-- ==== Sys2Proof/Machine/Step.lean ====
section
/-! DEFINITION. One step: the oldest pending input, taken as one atomic transition (20_memory.md R59,
R61); with none pending the block holds its state (60_exceptions.md R200). -/

namespace Sys2Proof.Machine

/-- One step (log 2). -/
def step (s : State) : Host.Outcome State Fault Refusal :=
  match s.pending with
  | [] => .next s
  | a :: rest => perform a { s with pending := rest }

/-- The next input becomes the host's write of the word to CMD, ahead of those already pending
(R21, log 2, log 15). -/
def State.withFetchWord (s : State) (nbits w : Nat) : State :=
  { s with
    pending := .write32 (Reg.offset .cmd) (BitVec.ofNat 32 (w % 2 ^ nbits)) :: s.pending }

end Sys2Proof.Machine
end

