-- ==== Sys2Proof/Machine/Asm.lean ====
section
/-! DEFINITION. The assembler syntax of the commands (30_encoding.md R83), on tokens: a mnemonic and
its operands (log 20). -/

namespace Sys2Proof.Machine

/-- The mnemonics of R78. -/
inductive Mnemonic
  | CRC
  | CRCAPP
  | CRCCHK
  | BUILD
  | PARSE
  | SWAP
  | DEC16
  | DEC32
  | RDEC16
  | RDEC32
  deriving DecidableEq, Repr

/-- An operand: a decimal integer, `u` or `s`, or `be`, `le`, `bes`, `les` (R83). -/
inductive AsmOperand
  | num (n : Nat)
  | sign (sg : Signedness)
  | order (bo : ByteOrder)
  deriving DecidableEq, Repr

/-- d, sg and bo; an omitted trailing operand is 0, `u`, `be`; d lies in 0..255 (R83). -/
def asmOperands : List AsmOperand → Option (Byte × Signedness × ByteOrder)
  | [] => some (0, .unsigned, .big)
  | [.num n] => if n < 256 then some (BitVec.ofNat 8 n, .unsigned, .big) else none
  | [.num n, .sign sg] => if n < 256 then some (BitVec.ofNat 8 n, sg, .big) else none
  | [.num n, .sign sg, .order bo] => if n < 256 then some (BitVec.ofNat 8 n, sg, bo) else none
  | _ => none

/-- A command without operands (R83). -/
def asmPlain (i : Instr) : List AsmOperand → Option Instr
  | [] => some i
  | _ => none

/-- A command with operands; a form without a command word is rejected (R80, R83). -/
def asmDecode (mk : Byte → Signedness → ByteOrder → Instr) (ops : List AsmOperand) :
    Option Instr :=
  match asmOperands ops with
  | some (d, sg, bo) => if (mk d sg bo).wf then some (mk d sg bo) else none
  | none => none

/-- The command a line stands for (R83). -/
def assemble (m : Mnemonic) (ops : List AsmOperand) : Option Instr :=
  match m with
  | .CRC => asmPlain .crc ops
  | .CRCAPP => asmPlain .crcApp ops
  | .CRCCHK => asmPlain .crcChk ops
  | .BUILD => asmPlain .build ops
  | .PARSE => asmPlain .parse ops
  | .SWAP => asmPlain .swap ops
  | .DEC16 => asmDecode .dec16 ops
  | .DEC32 => asmDecode .dec32 ops
  | .RDEC16 => asmDecode .rdec16 ops
  | .RDEC32 => asmDecode .rdec32 ops

end Sys2Proof.Machine
end

