-- ==== Sys2Proof/Machine/HostProgram.lean ====
section
/-! DEFINITION. The host's statements and pseudo-instructions as lists of inputs (00_scope.md R12,
30_encoding.md R84, 43_facade.md R164 to R167), and what the host makes of a result (41_codec.md R125,
60_exceptions.md R201). None of it is the block's: the block sees inputs. -/

namespace Sys2Proof.Machine

/-- `WR REG, v` (R12). -/
def wr (r : Reg) (v : Word) : Input := .write32 r.offset v

/-- `RD REG` (R12). -/
def rd (r : Reg) : Input := .read32 r.offset

/-- The host offset of byte `i` of a buffer (R50). -/
def byteOffset (b : Buf) (i : Nat) : Half := BitVec.ofNat 16 (b.base + i)

/-- `WB B, i, v` (R12). -/
def wb (b : Buf) (i : Nat) (v : Byte) : Input := .write8 (byteOffset b i) v

/-- `RB B, i` (R12). -/
def rb (b : Buf) (i : Nat) : Input := .read8 (byteOffset b i)

/-- `CMD <command>` (R12). -/
def cmd (i : Instr) : Input := wr .cmd (encode i)

/-- `WB B, i, b` for the bytes in order, from index `i` on (R84). -/
def loadFrom (b : Buf) : Nat → List Byte → List Input
  | _, [] => []
  | i, v :: rest => wb b i v :: loadFrom b (i + 1) rest

/-- `LOADI` (R84). -/
def loadI (bytes : List Byte) : List Input :=
  loadFrom .ibuf 0 bytes ++ [wr .ilen (BitVec.ofNat 32 bytes.length)]

/-- `LOADP` (R84). -/
def loadP (bytes : List Byte) : List Input :=
  loadFrom .pbuf 0 bytes ++ [wr .plen (BitVec.ofNat 32 bytes.length)]

/-- `SETREQ` (R84). -/
def setReq (a c : Half) : List Input :=
  [wr .regAddr (a.setWidth 32), wr .regCount (c.setWidth 32)]

/-- Construction: SLAVE and FC, once after reset (R167, R214). -/
def construct (slave fc : Byte) : List Input :=
  [wr .slave (slave.setWidth 32), wr .fc (fc.setWidth 32)]

/-- XFER's send: OLEN, which BUILD has set to 8, and the bytes of OBUF (R166, log 14). -/
def xferSend : List Input := rd .olen :: (List.range 8).map (rb .obuf)

/-- The reads that end a transaction (R164, R165). -/
def readResult : List Input := [rd .status, rd .rvalLo, rd .rvalHi, rd .rinfo]

/-- XFER's receive: the LOADI of the bytes received. No answer, and an empty read, are NoResponse, which
writes nothing (R166). -/
def xferReceive : Option (List Byte) → Option (List Input)
  | none => none
  | some [] => none
  | some (b :: rest) => some (loadI (b :: rest))

/-- A read transaction: request, transfer, decode. `received` is what the transport delivers, by R166 at
most 1024 and at most BUF_CAP bytes; NoResponse ends the transaction with no parse command (R163, R166,
log 14). -/
def transaction (a count : Half) (decodeCmd : Instr) (received : Option (List Byte)) :
    List Input :=
  setReq a count ++ [cmd .build] ++ xferSend ++
    match xferReceive received with
    | none => []
    | some load => load ++ [cmd decodeCmd] ++ readResult

/-- `read_register a, d, sg`: count 1, byte order BIG (R164). -/
def readRegisterProgram (a : Half) (d : Byte) (sg : Signedness) (received : Option (List Byte)) :
    List Input :=
  transaction a 1 (.rdec16 d sg .big) received

/-- `read_long a, sg, bo, d`: count 2 (R165). -/
def readLongProgram (a : Half) (sg : Signedness) (bo : ByteOrder) (d : Byte)
    (received : Option (List Byte)) : List Input :=
  transaction a 2 (.rdec32 d sg bo) received

/-- The decoded value `V = RVAL / 10^RDEC`, exactly (R33, R125). -/
def decodedValue (s : State) : ℚ := (s.rval.toInt : ℚ) / (10 : ℚ) ^ s.rdec.toNat

/-- The number the host hands to its caller (R125). -/
inductive HostNumber
  | integer (v : Int)
  | floating (v : ℚ)

/-- An integer when RKIND = 0, else FLOAT_OF(RVAL, RDEC) (R125, I4, log 11). -/
def hostNumber (s : State) : HostNumber :=
  if s.rkind = 0 then .integer s.rval.toInt
  else .floating (Config.floatOf s.rval.toInt s.rdec.toNat)

/-- Done or Failed, with the class of the failure (R163, R201); none for a code the block never
writes (I7). -/
def outcomeClass (s : State) : Option ErrClass := (ErrCode.ofCode s.err).map ErrCode.errClass

end Sys2Proof.Machine
end

