-- ==== Sys2Proof/Safety.lean ====
section
/-! DEFINITION. The terms in which claims speak of a run: written bytes, what a command reads, the
values a decode denotes, the admitted accesses, and the invariants of the block. The numbers of the
decode forms are written here a second time, as arithmetic, so that a claim does not repeat the
model's own bit operations. -/

namespace Sys2Proof.Machine

/-- Bytes 0..n-1 are written (10_state.md R41). -/
abbrev Written (m : Memory) (n : Nat) : Prop := ∀ j, j < n → (Memory.read m j).isSome = true

/-- The value of byte `k`; claims use it for written bytes only. -/
def byteOf (m : Memory) (k : Nat) : Byte := (Memory.read m k).getD 0

/-- The bytes 0..n-1, claims use it for written bytes only. -/
def prefixOf (m : Memory) (n : Nat) : List Byte := (List.range n).map (byteOf m)

/-- The 16-bit number `lo | hi << 8` (30_encoding.md R89). -/
def wireNumber (lo hi : Byte) : Nat := lo.toNat + 256 * hi.toNat

/-- The buffer and the number of its leading bytes that a command reads, once its checks of the lengths
have passed; none where it reads no buffer (40_crc.md R105 to R107, 41_codec.md R121, R126, R127,
42_frame.md R141, R143, 43_facade.md R161, R162). -/
def reads (i : Instr) (s : State) : Option (Buf × Nat) :=
  let cap := s.params.bufCap
  let n := s.ilen.toNat
  match i with
  | .crc => if n ≤ cap then some (.ibuf, n) else none
  | .crcApp => if n + 2 ≤ cap then some (.ibuf, n) else none
  | .crcChk => if 2 ≤ n ∧ n ≤ cap then some (.ibuf, n) else none
  | .build => none
  | .parse => if 4 ≤ n ∧ n ≤ cap then some (.ibuf, n) else none
  | .swap => if n ≤ cap ∧ n % 2 = 0 then some (.ibuf, n) else none
  | .dec16 _ _ bo => if bo.swaps = false ∧ s.plen.toNat = 2 then some (.pbuf, 2) else none
  | .dec32 _ _ _ => if s.plen.toNat = 4 then some (.pbuf, 4) else none
  | .rdec16 _ _ bo => if bo.swaps = false ∧ 4 ≤ n ∧ n ≤ cap then some (.ibuf, n) else none
  | .rdec32 _ _ _ => if 4 ≤ n ∧ n ≤ cap then some (.ibuf, n) else none

/-- The unsigned number of two bytes in a byte order (41_codec.md R122); the swapping orders, which no
16-bit decode takes, read as their plain order. -/
def number16 (bo : ByteOrder) (b0 b1 : Byte) : Nat :=
  match bo with
  | .big => 256 * b0.toNat + b1.toNat
  | .little => 256 * b1.toNat + b0.toNat
  | .bigSwap => 256 * b0.toNat + b1.toNat
  | .littleSwap => 256 * b1.toNat + b0.toNat

/-- The number of four bytes, most significant first. -/
def fourBytes (a b c d : Byte) : Nat :=
  16777216 * a.toNat + 65536 * b.toNat + 256 * c.toNat + d.toNat

/-- The unsigned number of four bytes in a byte order (R123). -/
def number32 (bo : ByteOrder) (b0 b1 b2 b3 : Byte) : Nat :=
  match bo with
  | .big => fourBytes b0 b1 b2 b3
  | .little => fourBytes b3 b2 b1 b0
  | .bigSwap => fourBytes b1 b0 b3 b2
  | .littleSwap => fourBytes b2 b3 b0 b1

/-- `value(p, SGN)` of a `width`-bit pattern (R124). -/
def denotes (width : Nat) (sg : Signedness) (p : Nat) : Int :=
  match sg with
  | .unsigned => p
  | .signed => if 2 ^ (width - 1) ≤ p then (p : Int) - 2 ^ width else p

/-- The integer a 16-bit decode of bytes `k`, `k+1` of a buffer denotes. -/
def value16At (m : Memory) (k : Nat) (sg : Signedness) (bo : ByteOrder) : Int :=
  denotes 16 sg (number16 bo (byteOf m k) (byteOf m (k + 1)))

/-- The integer a 32-bit decode of bytes `k`..`k+3` of a buffer denotes. -/
def value32At (m : Memory) (k : Nat) (sg : Signedness) (bo : ByteOrder) : Int :=
  denotes 32 sg
    (number32 bo (byteOf m k) (byteOf m (k + 1)) (byteOf m (k + 2)) (byteOf m (k + 3)))

/-- The bit-serial CRC of 40_crc.md R103, byte after byte. -/
def bitSerialCrc : List Byte → Half → Half
  | [], r => r
  | b :: rest, r =>
    bitSerialCrc rest
      ((List.range 8).foldl
        (fun c _ => if c.toNat % 2 = 1 then (c >>> 1) ^^^ 0xA001 else c >>> 1)
        (r ^^^ b.setWidth 16))

/-- The CRC over IBUF[0:ILEN-2]. -/
def computedCrc (s : State) : Half := crc16 (prefixOf s.ibuf (s.ilen.toNat - 2))

/-- The CRC received in the last two bytes of IBUF[0:ILEN]. -/
def receivedCrc (s : State) : Half :=
  BitVec.ofNat 16
    (wireNumber (byteOf s.ibuf (s.ilen.toNat - 2)) (byteOf s.ibuf (s.ilen.toNat - 1)))

/-- IBUF[0:ILEN] is a response that passes the three checks (42_frame.md R142): every byte is written,
the length lies in 4..BUF_CAP, the CRC and the address match. -/
def GoodResponse (s : State) : Prop :=
  4 ≤ s.ilen.toNat ∧ s.ilen.toNat ≤ s.params.bufCap ∧ Written s.ibuf s.ilen.toNat ∧
    computedCrc s = receivedCrc s ∧ byteOf s.ibuf 0 = s.slave

/-- A host offset holds byte `i` of a buffer (20_memory.md R50). -/
def InBuffer (p : Params) (b : Buf) (off : Half) : Prop :=
  b.base ≤ off.toNat ∧ off.toNat < b.base + p.bufCap

/-- The registers a host may only read (10_state.md R22). -/
def Reg.readOnly : Reg → Bool
  | .cmd => false
  | .status => true
  | .diag => true
  | .slave => false
  | .fc => false
  | .regAddr => false
  | .regCount => false
  | .ilen => false
  | .olen => true
  | .plen => false
  | .rvalLo => true
  | .rvalHi => true
  | .rinfo => true
  | .crcv => true
  | .param => true

/-- The inputs that have a step: reset, 32-bit accesses at register offsets, 8-bit accesses at buffer
offsets, no write to read-only state (20_memory.md R51, 10_state.md R39). -/
def Admitted (p : Params) : Input → Prop
  | .reset => True
  | .read32 off => ∃ r : Reg, off = r.offset
  | .write32 off _ => ∃ r : Reg, off = r.offset ∧ r.readOnly = false
  | .read8 off => ∃ b : Buf, InBuffer p b off
  | .write8 off _ => InBuffer p .ibuf off ∨ InBuffer p .pbuf off
  | .readOther _ _ => False
  | .writeOther _ _ => False

/-- `w` is the one word with its OP that decodes, and it decodes to `i` (30_encoding.md R77, R78). -/
def SoleWord (w : Word) (i : Instr) : Prop :=
  decode w = .ok i ∧ ∀ v, opField v = opField w → v ≠ w → ∃ e, decode v = .error e

/-- SGN as a number (R74). -/
def sgnNumber : Signedness → Nat
  | .unsigned => 0
  | .signed => 1

/-- BO as a number (R75). -/
def boNumber : ByteOrder → Nat
  | .big => 0
  | .little => 1
  | .bigSwap => 2
  | .littleSwap => 3

/-- `OP | d << 8 | sgn << 16 | bo << 17` (R83). -/
def operandWord (op : Nat) (d : Byte) (sg : Signedness) (bo : ByteOrder) : Word :=
  BitVec.ofNat 32 (op + 256 * d.toNat + 65536 * sgnNumber sg + 131072 * boNumber bo)

/-- What a host read of a register returns, as a number (10_state.md R22 to R36). -/
def registerNumber (s : State) : Reg → Nat
  | .cmd => s.cmd.toNat
  | .status => s.err.toNat + 256 * s.lastOp.toNat
  | .diag => s.expv.toNat + 65536 * s.rcvv.toNat
  | .slave => s.slave.toNat
  | .fc => s.fc.toNat
  | .regAddr => s.regAddr.toNat
  | .regCount => s.regCount.toNat
  | .ilen => s.ilen.toNat
  | .olen => s.olen.toNat
  | .plen => s.plen.toNat
  | .rvalLo => s.rval.toNat % 4294967296
  | .rvalHi => s.rval.toNat / 4294967296
  | .rinfo => s.rdec.toNat + 256 * s.rkind.toNat
  | .crcv => s.crcv.toNat
  | .param => s.params.bufCap + 65536 * s.params.payloadSkip + 16777216

/-- A next state changed by `g`; a fault or a refusal as it is. -/
def mapNext (g : State → State) : Result → Result
  | .next s => .next (g s)
  | .fault f => .fault f
  | .refused r => .refused r

/-- A word that decodes as Illegal, by the four cases of 60_exceptions.md R187. -/
def IllegalWord (w : Word) : Prop :=
  let n := w.toNat
  let op := n % 256
  524288 ≤ n ∨ op = 0 ∨ 0x0B ≤ op ∨ (1 ≤ op ∧ op ≤ 6 ∧ n / 256 % 2048 ≠ 0) ∨
    ((op = 7 ∨ op = 9) ∧ 2 ≤ n / 131072 % 4)

/-- One buffer in its canonical form, within the capacity (R37, R54). -/
abbrev BufferForm (cap : Nat) (m : Memory) : Prop :=
  Memory.wf m = true ∧ Memory.below cap m = true

/-- The memory invariant: the parameters are legal, the buffers are in canonical form within BUF_CAP,
and OBUF[0:OLEN] is written (00_scope.md R7, 10_state.md R31, R37). -/
structure State.MemInv (s : State) : Prop where
  legal : s.params.Legal
  ibuf : BufferForm s.params.bufCap s.ibuf
  obuf : BufferForm s.params.bufCap s.obuf
  pbuf : BufferForm s.params.bufCap s.pbuf
  olenFits : s.olen.toNat ≤ s.params.bufCap
  outputWritten : Written s.obuf s.olen.toNat

/-- The register invariant: ERR is a code the block writes (60_exceptions.md R181, R189), success has
DIAG = 0 (R190), LASTOP is OP of CMD (10_state.md R23, R24), ERR = 6 exactly when CMD is an illegal word
that was issued (R187), RKIND says whether RDEC is 0 (R34), and RVAL is a decode's result (R33,
41_codec.md R129). -/
structure State.RegInv (s : State) : Prop where
  errCode : s.err.toNat ≤ 7 ∧ s.err ≠ 5
  okDiag : s.err = 0 → s.expv = 0 ∧ s.rcvv = 0
  lastOp : s.lastOp = opField s.cmd
  illegal : IllegalWord s.cmd → s.err = 6 ∨ (s.err = 0 ∧ s.cmd = 0)
  legal : ¬ IllegalWord s.cmd → s.err ≠ 6
  kind : s.rkind = 0 ↔ s.rdec = 0
  range : -2147483648 ≤ s.rval.toInt ∧ s.rval.toInt ≤ 4294967295

/-- DIAG fits ERR (60_exceptions.md R181). -/
structure State.DiagInv (s : State) : Prop where
  tooShort : s.err = 1 → (s.expv = 4 ∨ s.expv = 2) ∧ s.rcvv.toNat < s.expv.toNat
  checksum : s.err = 2 → s.expv ≠ s.rcvv
  address : s.err = 3 → s.expv ≠ s.rcvv ∧ s.expv.toNat < 256 ∧ s.rcvv.toNat < 256
  codec : s.err = 4 → s.expv ≠ s.rcvv
  illegal : s.err = 6 → s.expv = 0 ∧ s.rcvv = s.lastOp.setWidth 16
  capacity :
    s.err = 7 →
      (s.expv.toNat = s.params.bufCap ∨ s.expv.toNat + 2 = s.params.bufCap) ∧
        s.expv.toNat < s.rcvv.toNat

/-- The state written by a failing command: STATUS.ERR and DIAG only (R182). -/
def State.failed (s : State) (err : BitVec 4) (exp rcv : Half) : State :=
  { s with err := err, expv := exp, rcvv := rcv }

/-- How PARSE, RDEC16 and RDEC32 answer a response that fails a check, in the order of 42_frame.md R142
and R143: CapacityError, TooShort (both before any byte is read), ChecksumMismatch, AddressMismatch. -/
def RejectsBadResponses (i : Instr) (s : State) : Prop :=
  let cap := s.params.bufCap
  let n := s.ilen.toNat
  (cap < n → exec i s = .next (s.failed 7 (BitVec.ofNat 16 cap) s.ilen)) ∧
    (n ≤ cap → n < 4 → exec i s = .next (s.failed 1 4 s.ilen)) ∧
    (n ≤ cap → 4 ≤ n → Written s.ibuf n → computedCrc s ≠ receivedCrc s →
      exec i s = .next (s.failed 2 (computedCrc s) (receivedCrc s))) ∧
    (n ≤ cap → 4 ≤ n → Written s.ibuf n → computedCrc s = receivedCrc s →
      byteOf s.ibuf 0 ≠ s.slave →
      exec i s = .next (s.failed 3 (s.slave.setWidth 16) ((byteOf s.ibuf 0).setWidth 16)))

/-- PBUF after a payload IBUF[2:ILEN-2] has been extracted; bytes beyond it are as before (R143). -/
def PayloadExtracted (s t : State) : Prop :=
  (∀ j, j < s.ilen.toNat - 4 → Memory.read t.pbuf j = some (byteOf s.ibuf (j + 2))) ∧
    ∀ a, s.ilen.toNat - 4 ≤ a → Memory.read t.pbuf a = Memory.read s.pbuf a

/-- What a successful command of each kind leaves unchanged, and which buffer bytes it leaves alone
(10_state.md R42): every field not named here is as before. -/
def Frame (i : Instr) (s t : State) : Prop :=
  match i with
  | .crc =>
    t = { s with obuf := t.obuf, olen := t.olen, crcv := t.crcv, err := 0, expv := 0, rcvv := 0 } ∧
      ∀ a, 2 ≤ a → Memory.read t.obuf a = Memory.read s.obuf a
  | .crcApp =>
    t = { s with obuf := t.obuf, olen := t.olen, crcv := t.crcv, err := 0, expv := 0, rcvv := 0 } ∧
      ∀ a, s.ilen.toNat + 2 ≤ a → Memory.read t.obuf a = Memory.read s.obuf a
  | .crcChk => t = { s with crcv := t.crcv, err := 0, expv := 0, rcvv := 0 }
  | .build =>
    t = { s with obuf := t.obuf, olen := t.olen, crcv := t.crcv, err := 0, expv := 0, rcvv := 0 } ∧
      ∀ a, 8 ≤ a → Memory.read t.obuf a = Memory.read s.obuf a
  | .parse =>
    t = { s with pbuf := t.pbuf, plen := t.plen, crcv := t.crcv, err := 0, expv := 0, rcvv := 0 } ∧
      ∀ a, s.ilen.toNat - 4 ≤ a → Memory.read t.pbuf a = Memory.read s.pbuf a
  | .swap =>
    t = { s with obuf := t.obuf, olen := t.olen, err := 0, expv := 0, rcvv := 0 } ∧
      ∀ a, s.ilen.toNat ≤ a → Memory.read t.obuf a = Memory.read s.obuf a
  | .dec16 _ _ _ =>
    t = { s with rval := t.rval, rdec := t.rdec, rkind := t.rkind, err := 0, expv := 0, rcvv := 0 }
  | .dec32 _ _ _ =>
    t = { s with rval := t.rval, rdec := t.rdec, rkind := t.rkind, err := 0, expv := 0, rcvv := 0 }
  | .rdec16 _ _ _ =>
    t =
        { s with
          pbuf := t.pbuf, plen := t.plen, crcv := t.crcv, rval := t.rval, rdec := t.rdec,
          rkind := t.rkind, err := 0, expv := 0, rcvv := 0 } ∧
      ∀ a, s.ilen.toNat - 4 ≤ a → Memory.read t.pbuf a = Memory.read s.pbuf a
  | .rdec32 _ _ _ =>
    t =
        { s with
          pbuf := t.pbuf, plen := t.plen, crcv := t.crcv, rval := t.rval, rdec := t.rdec,
          rkind := t.rkind, err := 0, expv := 0, rcvv := 0 } ∧
      ∀ a, s.ilen.toNat - 4 ≤ a → Memory.read t.pbuf a = Memory.read s.pbuf a

end Sys2Proof.Machine
end

