-- ==== Sys2Proof/Certificates/Slice0/Obligations.lean ====
section
/-! DEFINITION. The statements for the provers, from the numbered rules of spec/. -/

open Sys2Proof Sys2Proof.Machine

/-- 30_encoding.md R70: a host write to CMD stores the word and LASTOP, then executes the decoded command
at that state, or raises IllegalCommand(0, OP). -/
def Obligations.CommandWriteRunsTheDecodedCommand : Prop :=
  ∀ (s : State) (w : Word),
    (∀ i, decode w = .ok i →
      perform (.write32 0x00 w) s = exec i { s with cmd := w, lastOp := w.extractLsb' 0 8 }) ∧
    (∀ e, decode w = .error e →
      perform (.write32 0x00 w) s =
        .next
          (State.failed { s with cmd := w, lastOp := w.extractLsb' 0 8 } 6 0
            ((w.extractLsb' 0 8).setWidth 16)))

/-- A step runs the decoded instruction: it takes the oldest pending input; if that is a write of a legal
word to CMD, the step is `exec` of the decoded command at the state with CMD, LASTOP and the rest of the
inputs in place. With no input to come the block holds its state. The list of inputs is the model's own
(log 2); 20_memory.md sections 4, 5 and 60_exceptions.md section 4 say that accesses are atomic, in order,
and that the block holds its state between them. -/
def Obligations.StepRunsTheOldestInput : Prop :=
  ∀ s : State,
    (s.pending = [] → step s = .next s) ∧
      ∀ rest : List Input,
        (∀ a, s.pending = a :: rest → step s = perform a { s with pending := rest }) ∧
          ∀ (w : Word) (i : Instr), s.pending = .write32 0x00 w :: rest → decode w = .ok i →
            step s = exec i { s with pending := rest, cmd := w, lastOp := w.extractLsb' 0 8 }

/-- A sanity statement: words of 30_encoding.md R83 and 95_test_vectors.md V6. -/
def Obligations.WordsDecodeToTheirCommands : Prop :=
  decode 0x00000001 = .ok .crc ∧ decode 0x00000005 = .ok .parse ∧
    decode 0x00000107 = .ok (.dec16 1 .unsigned .big) ∧
    decode 0x00010007 = .ok (.dec16 0 .signed .big) ∧
    decode 0x00020009 = .ok (.rdec16 0 .unsigned .little) ∧
    decode 0x00070208 = .ok (.dec32 2 .signed .littleSwap) ∧
    decode 0x0007FF0A = .ok (.rdec32 255 .signed .littleSwap) ∧
    decode 0x00080008 = .error .reservedBits ∧ decode 0x00040007 = .error .byteOrder ∧
    decode 0x00020001 = .error .unusedField ∧ decode 0x0000000B = .error .opcode

/-- 30_encoding.md sections 2 to 7: no operand is lost between the encoder and the decoder. -/
def Obligations.DecodeOfEncodeIsTheCommand : Prop :=
  ∀ i : Instr, i.wf = true → decode (encode i) = .ok i

/-- 30_encoding.md sections 2 to 7: a legal word is the encoding of the command it decodes to. -/
def Obligations.EncodeOfDecodeIsTheWord : Prop :=
  ∀ (w : Word) (i : Instr), decode w = .ok i → i.wf = true ∧ encode i = w

/-- 30_encoding.md R78: a word decodes to a command exactly when it selects that command's row. -/
def Obligations.DecodeAgreesWithTheOpcodeMap : Prop :=
  ∀ w : Word,
    (w &&& 0xFFFFFFFF = 0x00000001 ↔ decode w = .ok .crc) ∧
    (w &&& 0xFFFFFFFF = 0x00000002 ↔ decode w = .ok .crcApp) ∧
    (w &&& 0xFFFFFFFF = 0x00000003 ↔ decode w = .ok .crcChk) ∧
    (w &&& 0xFFFFFFFF = 0x00000004 ↔ decode w = .ok .build) ∧
    (w &&& 0xFFFFFFFF = 0x00000005 ↔ decode w = .ok .parse) ∧
    (w &&& 0xFFFFFFFF = 0x00000006 ↔ decode w = .ok .swap) ∧
    (w &&& 0xFFFC00FF = 0x00000007 ↔ ∃ d sg bo, decode w = .ok (.dec16 d sg bo)) ∧
    (w &&& 0xFFF800FF = 0x00000008 ↔ ∃ d sg bo, decode w = .ok (.dec32 d sg bo)) ∧
    (w &&& 0xFFFC00FF = 0x00000009 ↔ ∃ d sg bo, decode w = .ok (.rdec16 d sg bo)) ∧
    (w &&& 0xFFF800FF = 0x0000000A ↔ ∃ d sg bo, decode w = .ok (.rdec32 d sg bo))

/-- 30_encoding.md R73, R75: the operand fields of a word, as numbers. -/
def Obligations.OperandsAreTheWordsFields : Prop :=
  ∀ (w : Word) (d : Byte) (sg : Signedness) (bo : ByteOrder),
    (decode w = .ok (.dec16 d sg bo) ∨ decode w = .ok (.dec32 d sg bo) ∨
      decode w = .ok (.rdec16 d sg bo) ∨ decode w = .ok (.rdec32 d sg bo)) →
      d.toNat = w.toNat / 256 % 256 ∧ sgnNumber sg = w.toNat / 65536 % 2 ∧
        boNumber bo = w.toNat / 131072 % 4 ∧
        ((decode w = .ok (.dec16 d sg bo) ∨ decode w = .ok (.rdec16 d sg bo)) →
          bo = .big ∨ bo = .little)

/-- 60_exceptions.md R187: which words are illegal, and that such a word, written to CMD, changes only
CMD, STATUS and DIAG. -/
def Obligations.IllegalWordsRaiseIllegalCommand : Prop :=
  ∀ w : Word,
    (IllegalWord w ↔ ∃ e, decode w = .error e) ∧
      ∀ s : State, IllegalWord w →
        perform (.write32 0x00 w) s =
          .next
            { s with
              cmd := w, lastOp := w.extractLsb' 0 8, err := 6, expv := 0,
              rcvv := BitVec.ofNat 16 (w.toNat % 256) }

/-- 70_reset_and_hazards.md section 1: reset from any state. The inputs still to come, the replies and
the count of draws are the model's own fields, which it keeps (log 6). -/
def Obligations.ResetSetsEveryRegister : Prop :=
  ∀ s : State,
    perform .reset s =
      .next
        { params := s.params, cmd := 0, err := 0, lastOp := 0, expv := 0, rcvv := 0, slave := 1,
          fc := 4, regAddr := 0, regCount := 0, ilen := 0, olen := 0, plen := 0, rval := 0,
          rdec := 0, rkind := 0, crcv := 0, ibuf := [], obuf := [], pbuf := [],
          pending := s.pending, replies := s.replies, draws := s.draws }

/-- 70_reset_and_hazards.md section 1, marked there as derived from R210 and R79: STATUS = 0 identifies a
block that has run no command since reset. -/
def Obligations.NoCommandLeavesStatusZero : Prop :=
  readRegister State.reset .status = 0 ∧
    ∀ (s t : State) (w : Word),
      perform (.write32 0x00 w) s = .next t → readRegister t .status ≠ 0

/-- 10_state.md section 2: every register read returns its fields, bits outside them 0, and changes
nothing in the block. What a read returned is kept in `replies`, the model's own field (log 5). -/
def Obligations.RegisterReadsReturnTheirFields : Prop :=
  ∀ (s : State) (r : Reg), s.params.Legal →
    ∃ v : Word,
      perform (.read32 r.offset) s = .next { s with replies := .word v :: s.replies } ∧
        v.toNat = registerNumber s r

/-- 10_state.md R36: PARAM's fields and its normative value, which no step changes. -/
def Obligations.ParamIsConstant : Prop :=
  (∀ s : State, s.params.Legal →
    (readRegister s .param).toNat % 65536 = s.params.bufCap ∧
      (readRegister s .param).toNat / 65536 % 256 = s.params.payloadSkip ∧
      (readRegister s .param).toNat / 16777216 = 1) ∧
    readRegister State.reset .param = 0x01000400 ∧
    ∀ s t : State, step s = .next t → readRegister t .param = readRegister s .param

/-- 10_state.md R38: a host write to an RW register stores the field's bits and ignores the others; a
write to CMD stores the whole word, and only it has a further effect, the command. -/
def Obligations.RegisterWritesKeepFieldBits : Prop :=
  ∀ (s : State) (v : Word),
    (∀ t, perform (.write32 0x00 v) s = .next t → readRegister t .cmd = v) ∧
    (∃ t, perform (.write32 0x0C v) s = .next t ∧ t = { s with slave := t.slave } ∧
      (readRegister t .slave).toNat = v.toNat % 256) ∧
    (∃ t, perform (.write32 0x10 v) s = .next t ∧ t = { s with fc := t.fc } ∧
      (readRegister t .fc).toNat = v.toNat % 256) ∧
    (∃ t, perform (.write32 0x14 v) s = .next t ∧ t = { s with regAddr := t.regAddr } ∧
      (readRegister t .regAddr).toNat = v.toNat % 65536) ∧
    (∃ t, perform (.write32 0x18 v) s = .next t ∧ t = { s with regCount := t.regCount } ∧
      (readRegister t .regCount).toNat = v.toNat % 65536) ∧
    (∃ t, perform (.write32 0x1C v) s = .next t ∧ t = { s with ilen := t.ilen } ∧
      (readRegister t .ilen).toNat = v.toNat % 65536) ∧
    (∃ t, perform (.write32 0x24 v) s = .next t ∧ t = { s with plen := t.plen } ∧
      (readRegister t .plen).toNat = v.toNat % 65536)

/-- 20_memory.md R51: exactly the accesses that are not admitted are refused, in every state. -/
def Obligations.ExactlyTheInadmissibleAccessesAreRefused : Prop :=
  ∀ (s : State) (a : Input), s.params.Legal →
    ((∃ r, perform a s = .refused r) ↔ ¬ Admitted s.params a)

/-- 20_memory.md section 4: a host read changes nothing in the block, and reading again returns the same
value unless the byte is unwritten, which is when a free byte is drawn. `replies` and `draws` are the
model's own fields (log 4, 5). -/
def Obligations.HostReadsChangeNothing : Prop :=
  ∀ (s t : State) (off : Half) (a : Input), (a = .read32 off ∨ a = .read8 off) →
    perform a s = .next t →
      t = { s with replies := t.replies, draws := t.draws } ∧
        ∃ r, t.replies = r :: s.replies ∧
          (t.draws = s.draws →
            ∃ u, perform a t = .next u ∧ u.replies = r :: r :: s.replies ∧ u.draws = t.draws)

/-- 20_memory.md section 2: a host read of a written byte returns its value; of an unwritten one, a free
byte, drawn afresh at each read (log 4). The statement holds for every value of the free byte. -/
def Obligations.BufferReadReturnsTheLastValueWritten : Prop :=
  ∀ (s : State) (b : Buf) (i : Nat) (off : Half),
    s.params.Legal → i < s.params.bufCap → off.toNat = b.base + i →
      (∀ v, Memory.read (s.buf b) i = some v →
        perform (.read8 off) s = .next { s with replies := .byte v :: s.replies }) ∧
      (Memory.read (s.buf b) i = none →
        ∃ v, perform (.read8 off) s =
          .next { s with replies := .byte v :: s.replies, draws := s.draws + 1 })

/-- 10_state.md section 4 and 20_memory.md section 5: a byte the host writes is the byte there after, and
no other byte, mark or register changes. -/
def Obligations.HostByteWriteChangesOneByte : Prop :=
  ∀ (s : State) (i : Nat) (off : Half) (v : Byte),
    s.params.Legal → i < s.params.bufCap →
      (off.toNat = 0x1000 + i →
        ∃ t, perform (.write8 off v) s = .next t ∧ t = { s with ibuf := t.ibuf } ∧
          Memory.read t.ibuf i = some v ∧
          ∀ a, a ≠ i → Memory.read t.ibuf a = Memory.read s.ibuf a) ∧
      (off.toNat = 0x3000 + i →
        ∃ t, perform (.write8 off v) s = .next t ∧ t = { s with pbuf := t.pbuf } ∧
          Memory.read t.pbuf i = some v ∧
          ∀ a, a ≠ i → Memory.read t.pbuf a = Memory.read s.pbuf a)

/-- 20_memory.md section 4: a step takes one input, and a command takes none of the later ones. The list
of inputs is the model's own (log 2). -/
def Obligations.EveryStepTakesOneInput : Prop :=
  ∀ s t : State, step s = .next t → t.pending = s.pending.tail

/-- 40_crc.md section 1, marked there as general knowledge: the table-driven CRC is the bit-serial one, and
the check value of the nine ASCII digits is 0x4B37. -/
def Obligations.CrcEqualsTheBitSerialForm : Prop :=
  (∀ s : List Byte, crc16 s = bitSerialCrc s 0xFFFF) ∧
    crc16 [0x31, 0x32, 0x33, 0x34, 0x35, 0x36, 0x37, 0x38, 0x39] = 0x4B37

/-- 40_crc.md section 1, marked there as general knowledge: a sequence with its CRC bytes has CRC 0. -/
def Obligations.AppendedCrcHasZeroResidue : Prop :=
  ∀ s : List Byte, crc16 (s ++ crcBytes s) = 0

/-- 40_crc.md R105: CRC. -/
def Obligations.CrcCommand : Prop :=
  SoleWord 0x00000001 .crc ∧
    ∀ s : State,
      (s.params.bufCap < s.ilen.toNat →
        exec .crc s = .next (s.failed 7 (BitVec.ofNat 16 s.params.bufCap) s.ilen)) ∧
      (s.ilen.toNat ≤ s.params.bufCap → Written s.ibuf s.ilen.toNat →
        ∃ t, exec .crc s = .next t ∧
          t =
            { s with
              obuf := t.obuf, olen := 2, crcv := crc16 (prefixOf s.ibuf s.ilen.toNat), err := 0,
              expv := 0, rcvv := 0 } ∧
          Memory.read t.obuf 0 = some (t.crcv.extractLsb' 0 8) ∧
          Memory.read t.obuf 1 = some (t.crcv.extractLsb' 8 8) ∧
          ∀ a, 2 ≤ a → Memory.read t.obuf a = Memory.read s.obuf a)

/-- 40_crc.md R106: CRCAPP. -/
def Obligations.CrcAppendCommand : Prop :=
  SoleWord 0x00000002 .crcApp ∧
    ∀ s : State, s.params.Legal →
      (s.params.bufCap < s.ilen.toNat + 2 →
        exec .crcApp s = .next (s.failed 7 (BitVec.ofNat 16 (s.params.bufCap - 2)) s.ilen)) ∧
      (s.ilen.toNat + 2 ≤ s.params.bufCap → Written s.ibuf s.ilen.toNat →
        ∃ t, exec .crcApp s = .next t ∧
          t =
            { s with
              obuf := t.obuf, olen := BitVec.ofNat 16 (s.ilen.toNat + 2),
              crcv := crc16 (prefixOf s.ibuf s.ilen.toNat), err := 0, expv := 0, rcvv := 0 } ∧
          (∀ j, j < s.ilen.toNat → Memory.read t.obuf j = Memory.read s.ibuf j) ∧
          Memory.read t.obuf s.ilen.toNat = some (t.crcv.extractLsb' 0 8) ∧
          Memory.read t.obuf (s.ilen.toNat + 1) = some (t.crcv.extractLsb' 8 8) ∧
          ∀ a, s.ilen.toNat + 2 ≤ a → Memory.read t.obuf a = Memory.read s.obuf a)

/-- 40_crc.md R107: CRCCHK. -/
def Obligations.CrcCheckCommand : Prop :=
  SoleWord 0x00000003 .crcChk ∧
    ∀ s : State,
      (s.params.bufCap < s.ilen.toNat →
        exec .crcChk s = .next (s.failed 7 (BitVec.ofNat 16 s.params.bufCap) s.ilen)) ∧
      (s.ilen.toNat ≤ s.params.bufCap → s.ilen.toNat < 2 →
        exec .crcChk s = .next (s.failed 1 2 s.ilen)) ∧
      (s.ilen.toNat ≤ s.params.bufCap → 2 ≤ s.ilen.toNat → Written s.ibuf s.ilen.toNat →
        (computedCrc s ≠ receivedCrc s →
          exec .crcChk s = .next (s.failed 2 (computedCrc s) (receivedCrc s))) ∧
        (computedCrc s = receivedCrc s →
          exec .crcChk s =
            .next { s with crcv := computedCrc s, err := 0, expv := 0, rcvv := 0 }))

/-- 42_frame.md R140, R141: BUILD, which completes in every state. -/
def Obligations.BuildCommand : Prop :=
  SoleWord 0x00000004 .build ∧
    ∀ s : State,
      let body : List Byte :=
        [s.slave, s.fc, BitVec.ofNat 8 (s.regAddr.toNat / 256),
          BitVec.ofNat 8 (s.regAddr.toNat % 256), BitVec.ofNat 8 (s.regCount.toNat / 256),
          BitVec.ofNat 8 (s.regCount.toNat % 256)]
      ∃ t, exec .build s = .next t ∧
        t =
          { s with
            obuf := t.obuf, olen := 8, crcv := crc16 body, err := 0, expv := 0, rcvv := 0 } ∧
        (∀ j, j < 6 → Memory.read t.obuf j = body[j]?) ∧
        Memory.read t.obuf 6 = some (t.crcv.extractLsb' 0 8) ∧
        Memory.read t.obuf 7 = some (t.crcv.extractLsb' 8 8) ∧
        ∀ a, 8 ≤ a → Memory.read t.obuf a = Memory.read s.obuf a

/-- 42_frame.md R143: PARSE. -/
def Obligations.ParseCommand : Prop :=
  SoleWord 0x00000005 .parse ∧
    ∀ s : State,
      RejectsBadResponses .parse s ∧
        (GoodResponse s →
          ∃ t, exec .parse s = .next t ∧
            t =
              { s with
                pbuf := t.pbuf, plen := BitVec.ofNat 16 (s.ilen.toNat - 4),
                crcv := computedCrc s, err := 0, expv := 0, rcvv := 0 } ∧
            PayloadExtracted s t)

/-- 41_codec.md R121: SWAP. -/
def Obligations.SwapCommand : Prop :=
  SoleWord 0x00000006 .swap ∧
    ∀ s : State,
      (s.params.bufCap < s.ilen.toNat →
        exec .swap s = .next (s.failed 7 (BitVec.ofNat 16 s.params.bufCap) s.ilen)) ∧
      (s.ilen.toNat ≤ s.params.bufCap → s.ilen.toNat % 2 = 1 →
        exec .swap s = .next (s.failed 4 0 s.ilen)) ∧
      (s.ilen.toNat ≤ s.params.bufCap → s.ilen.toNat % 2 = 0 → Written s.ibuf s.ilen.toNat →
        ∃ t, exec .swap s = .next t ∧
          t = { s with obuf := t.obuf, olen := s.ilen, err := 0, expv := 0, rcvv := 0 } ∧
          (∀ k, 2 * k + 1 < s.ilen.toNat →
            Memory.read t.obuf (2 * k) = Memory.read s.ibuf (2 * k + 1) ∧
              Memory.read t.obuf (2 * k + 1) = Memory.read s.ibuf (2 * k)) ∧
          ∀ a, s.ilen.toNat ≤ a → Memory.read t.obuf a = Memory.read s.obuf a)

/-- 41_codec.md R126: DEC16. -/
def Obligations.Dec16Command : Prop :=
  ∀ (d : Byte) (sg : Signedness) (bo : ByteOrder),
    (bo.swaps = true → decode (operandWord 0x07 d sg bo) = .error .byteOrder) ∧
      (bo.swaps = false →
        decode (operandWord 0x07 d sg bo) = .ok (.dec16 d sg bo) ∧
          ∀ s : State,
            (s.params.bufCap < s.plen.toNat →
              exec (.dec16 d sg bo) s =
                .next (s.failed 7 (BitVec.ofNat 16 s.params.bufCap) s.plen)) ∧
            (s.plen.toNat ≤ s.params.bufCap → s.plen.toNat ≠ 2 →
              exec (.dec16 d sg bo) s = .next (s.failed 4 2 s.plen)) ∧
            (s.plen.toNat ≤ s.params.bufCap → s.plen.toNat = 2 → Written s.pbuf 2 →
              exec (.dec16 d sg bo) s =
                .next
                  { s with
                    rval := BitVec.ofInt 64 (value16At s.pbuf 0 sg bo), rdec := d,
                    rkind := if d = 0 then 0 else 1, err := 0, expv := 0, rcvv := 0 }))

/-- 41_codec.md R127: DEC32. -/
def Obligations.Dec32Command : Prop :=
  ∀ (d : Byte) (sg : Signedness) (bo : ByteOrder),
    decode (operandWord 0x08 d sg bo) = .ok (.dec32 d sg bo) ∧
      (∀ w : Word, opField w = 0x08 → 524288 ≤ w.toNat → ∃ e, decode w = .error e) ∧
      ∀ s : State,
        (s.params.bufCap < s.plen.toNat →
          exec (.dec32 d sg bo) s =
            .next (s.failed 7 (BitVec.ofNat 16 s.params.bufCap) s.plen)) ∧
        (s.plen.toNat ≤ s.params.bufCap → s.plen.toNat ≠ 4 →
          exec (.dec32 d sg bo) s = .next (s.failed 4 4 s.plen)) ∧
        (s.plen.toNat ≤ s.params.bufCap → s.plen.toNat = 4 → Written s.pbuf 4 →
          exec (.dec32 d sg bo) s =
            .next
              { s with
                rval := BitVec.ofInt 64 (value32At s.pbuf 0 sg bo), rdec := d,
                rkind := if d = 0 then 0 else 1, err := 0, expv := 0, rcvv := 0 })

/-- 43_facade.md R161: RDEC16, with the payload skip of R160. -/
def Obligations.Rdec16Command : Prop :=
  ∀ (d : Byte) (sg : Signedness) (bo : ByteOrder),
    (bo.swaps = true → decode (operandWord 0x09 d sg bo) = .error .byteOrder) ∧
      (bo.swaps = false →
        decode (operandWord 0x09 d sg bo) = .ok (.rdec16 d sg bo) ∧
          ∀ s : State, s.params.Legal →
            RejectsBadResponses (.rdec16 d sg bo) s ∧
              (GoodResponse s → s.ilen.toNat ≠ 6 + s.params.payloadSkip →
                exec (.rdec16 d sg bo) s =
                  .next
                    (s.failed 4 (BitVec.ofNat 16 (2 + s.params.payloadSkip))
                      (BitVec.ofNat 16 (s.ilen.toNat - 4)))) ∧
              (GoodResponse s → s.ilen.toNat = 6 + s.params.payloadSkip →
                ∃ t, exec (.rdec16 d sg bo) s = .next t ∧
                  t =
                    { s with
                      pbuf := t.pbuf, plen := BitVec.ofNat 16 (s.ilen.toNat - 4),
                      crcv := computedCrc s,
                      rval :=
                        BitVec.ofInt 64 (value16At s.ibuf (2 + s.params.payloadSkip) sg bo),
                      rdec := d, rkind := if d = 0 then 0 else 1, err := 0, expv := 0,
                      rcvv := 0 } ∧
                  PayloadExtracted s t))

/-- 43_facade.md R162: RDEC32, with the payload skip of R160. -/
def Obligations.Rdec32Command : Prop :=
  ∀ (d : Byte) (sg : Signedness) (bo : ByteOrder),
    decode (operandWord 0x0A d sg bo) = .ok (.rdec32 d sg bo) ∧
      ∀ s : State, s.params.Legal →
        RejectsBadResponses (.rdec32 d sg bo) s ∧
          (GoodResponse s → s.ilen.toNat ≠ 8 + s.params.payloadSkip →
            exec (.rdec32 d sg bo) s =
              .next
                (s.failed 4 (BitVec.ofNat 16 (4 + s.params.payloadSkip))
                  (BitVec.ofNat 16 (s.ilen.toNat - 4)))) ∧
          (GoodResponse s → s.ilen.toNat = 8 + s.params.payloadSkip →
            ∃ t, exec (.rdec32 d sg bo) s = .next t ∧
              t =
                { s with
                  pbuf := t.pbuf, plen := BitVec.ofNat 16 (s.ilen.toNat - 4),
                  crcv := computedCrc s,
                  rval := BitVec.ofInt 64 (value32At s.ibuf (2 + s.params.payloadSkip) sg bo),
                  rdec := d, rkind := if d = 0 then 0 else 1, err := 0, expv := 0, rcvv := 0 } ∧
              PayloadExtracted s t)

/-- 20_memory.md R55: a command faults exactly when a byte it reads is unwritten, and the fault names the
command and such a byte. -/
def Obligations.CommandsFaultExactlyOnUnwrittenInput : Prop :=
  ∀ (i : Instr) (s : State), s.params.Legal →
    (∀ f, exec i s = .fault f →
      ∃ b n j, reads i s = some (b, n) ∧ j < n ∧ f = .unwritten i b j ∧
        Memory.read (s.buf b) j = none) ∧
    (∀ b n j, reads i s = some (b, n) → j < n → Memory.read (s.buf b) j = none →
      ∃ k, exec i s = .fault (.unwritten i b k))

/-- 20_memory.md R54: no command reads or writes a buffer byte at or above BUF_CAP. -/
def Obligations.CommandsStayBelowTheCapacity : Prop :=
  ∀ (i : Instr) (s t : State), s.params.Legal →
    (∀ b n, reads i s = some (b, n) → n ≤ s.params.bufCap) ∧
      (exec i s = .next t →
        ∀ b a, s.params.bufCap ≤ a → Memory.read (t.buf b) a = Memory.read (s.buf b) a)

/-- 60_exceptions.md R180: every word written to CMD ends in success, in one error of R181, or in
`fault Unwritten`. -/
def Obligations.EveryCommandWordEndsInOneOfThreeWays : Prop :=
  ∀ (s : State) (w : Word),
    (∃ t, perform (.write32 0x00 w) s = .next t ∧
      ((t.err = 0 ∧ t.expv = 0 ∧ t.rcvv = 0) ∨ t.err = 1 ∨ t.err = 2 ∨ t.err = 3 ∨ t.err = 4 ∨
        t.err = 6 ∨ t.err = 7)) ∨
    (∃ i b j, perform (.write32 0x00 w) s = .fault (.unwritten i b j))

/-- 60_exceptions.md R194: errors are precise; the state after a failing command is the state before it
with only CMD, STATUS and DIAG changed. -/
def Obligations.FailingCommandsChangeOnlyStatusAndDiag : Prop :=
  (∀ (i : Instr) (s t : State), exec i s = .next t → t.err ≠ 0 →
    t = { s with err := t.err, expv := t.expv, rcvv := t.rcvv }) ∧
    ∀ (s t : State) (w : Word), perform (.write32 0x00 w) s = .next t → t.err ≠ 0 →
      t =
        { s with
          cmd := w, lastOp := w.extractLsb' 0 8, err := t.err, expv := t.expv, rcvv := t.rcvv }

/-- 10_state.md section 4, the summary of which command writes which state, marked there as derived from
the commands' rules: what a successful command leaves unchanged. -/
def Obligations.SuccessfulCommandsKeepTheirFrame : Prop :=
  ∀ (i : Instr) (s t : State), exec i s = .next t → t.err = 0 → Frame i s t

/-- 60_exceptions.md R188: CapacityError is found before every other check of a command. -/
def Obligations.CapacityErrorComesFirst : Prop :=
  ∀ (i : Instr) (s : State), s.params.Legal → i.wf = true →
    ((i = .crc ∨ i = .crcChk ∨ i = .swap ∨ i = .parse ∨ (∃ d sg bo, i = .rdec16 d sg bo) ∨
        ∃ d sg bo, i = .rdec32 d sg bo) →
      (exec i s = .next (s.failed 7 (BitVec.ofNat 16 s.params.bufCap) s.ilen) ↔
        s.params.bufCap < s.ilen.toNat)) ∧
    (i = .crcApp →
      (exec i s = .next (s.failed 7 (BitVec.ofNat 16 (s.params.bufCap - 2)) s.ilen) ↔
        s.params.bufCap < s.ilen.toNat + 2)) ∧
    (((∃ d sg bo, i = .dec16 d sg bo) ∨ ∃ d sg bo, i = .dec32 d sg bo) →
      (exec i s = .next (s.failed 7 (BitVec.ofNat 16 s.params.bufCap) s.plen) ↔
        s.params.bufCap < s.plen.toNat))

/-- 60_exceptions.md R183: TooShort, whatever bytes of IBUF are written. -/
def Obligations.TooShortComesBeforeTheRead : Prop :=
  ∀ (i : Instr) (s t : State), s.params.Legal → i.wf = true →
    ((i = .parse ∨ (∃ d sg bo, i = .rdec16 d sg bo) ∨ ∃ d sg bo, i = .rdec32 d sg bo) →
      s.ilen.toNat < 4 → exec i s = .next (s.failed 1 4 s.ilen)) ∧
    (i = .crcChk → s.ilen.toNat < 2 → exec i s = .next (s.failed 1 2 s.ilen)) ∧
    (exec i s = .next t → t.err = 1 →
      ((i = .parse ∨ (∃ d sg bo, i = .rdec16 d sg bo) ∨ ∃ d sg bo, i = .rdec32 d sg bo) ∧
          s.ilen.toNat < 4) ∨
        (i = .crcChk ∧ s.ilen.toNat < 2))

/-- 60_exceptions.md R184, R185: what the two mismatch errors carry, and that AddressMismatch is raised
only for a frame whose CRC matched. -/
def Obligations.MismatchErrorsCarryBothValues : Prop :=
  ∀ (i : Instr) (s t : State), exec i s = .next t →
    (t.err = 2 →
      2 ≤ s.ilen.toNat ∧ t.expv = computedCrc s ∧ t.rcvv = receivedCrc s ∧
        computedCrc s ≠ receivedCrc s) ∧
    (t.err = 3 →
      4 ≤ s.ilen.toNat ∧ computedCrc s = receivedCrc s ∧ byteOf s.ibuf 0 ≠ s.slave ∧
        t.expv = s.slave.setWidth 16 ∧ t.rcvv = (byteOf s.ibuf 0).setWidth 16)

/-- 10_state.md section 2 and 42_frame.md section 2: FC, REGADDR and REGCOUNT enter BUILD's request and
nothing else; no response check uses them. -/
def Obligations.RequestRegistersMatterToBuildOnly : Prop :=
  ∀ (i : Instr) (s : State) (f : Byte) (a c : Half), i ≠ .build →
    exec i { s with fc := f, regAddr := a, regCount := c } =
      mapNext (fun t => { t with fc := f, regAddr := a, regCount := c }) (exec i s)

/-- 43_facade.md section 3 (determinism, marked there as derived): what a parse or a composite command
answers depends only on the parameters, SLAVE, ILEN and the received bytes, not on anything an earlier
transaction left. -/
def Obligations.ResponsesDecideTheResult : Prop :=
  ∀ (i : Instr) (s u : State),
    (i = .parse ∨ (∃ d sg bo, i = .rdec16 d sg bo) ∨ ∃ d sg bo, i = .rdec32 d sg bo) →
    s.params = u.params → s.slave = u.slave → s.ilen = u.ilen →
    (∀ j, j < s.ilen.toNat → Memory.read s.ibuf j = Memory.read u.ibuf j) →
      (∀ f, exec i s = .fault f → exec i u = .fault f) ∧
      ∀ t, exec i s = .next t →
        ∃ v, exec i u = .next v ∧ v.err = t.err ∧ v.expv = t.expv ∧ v.rcvv = t.rcvv ∧
          (t.err = 0 →
            v.plen = t.plen ∧ v.crcv = t.crcv ∧
              (∀ j, j < t.plen.toNat → Memory.read v.pbuf j = Memory.read t.pbuf j) ∧
              (i ≠ .parse → v.rval = t.rval ∧ v.rdec = t.rdec ∧ v.rkind = t.rkind))

/-- 43_facade.md sections 2 and 3: with PAYLOAD_SKIP = 0 a composite command succeeds exactly as PARSE
followed by the decode does, with the same state. When the decode fails, the composite writes STATUS and
DIAG only, so PBUF, PLEN and CRCV, which PARSE has written, keep the values from before it; section 3
names PBUF and PLEN, and that CRCV is kept is section 2's "only STATUS and DIAG" (log 22). -/
def Obligations.CompositeIsParseThenDecode : Prop :=
  ∀ (s : State) (d : Byte) (sg : Signedness) (bo : ByteOrder),
    s.params.Legal → s.params.payloadSkip = 0 →
    ∀ i j : Instr,
      ((bo.swaps = false ∧ i = .rdec16 d sg bo ∧ j = .dec16 d sg bo) ∨
        (i = .rdec32 d sg bo ∧ j = .dec32 d sg bo)) →
      (∀ t, (exec i s = .next t ∧ t.err = 0) ↔
        ∃ m, exec .parse s = .next m ∧ m.err = 0 ∧ exec j m = .next t ∧ t.err = 0) ∧
      (∀ t, (exec i s = .next t ∧ t.err ≠ 0) ↔
        (exec .parse s = .next t ∧ t.err ≠ 0) ∨
          ∃ m u, exec .parse s = .next m ∧ m.err = 0 ∧ exec j m = .next u ∧ u.err ≠ 0 ∧
            t = s.failed u.err u.expv u.rcvv)

/-- 40_crc.md section 2, marked there as derived from R106 and R107: CRCAPP's output, copied into IBUF,
passes CRCCHK. -/
def Obligations.AppendThenCheckSucceeds : Prop :=
  ∀ s t u : State, s.params.Legal → exec .crcApp s = .next t → t.err = 0 →
    u.params = s.params → u.ilen = t.olen →
    (∀ j, j < t.olen.toNat → Memory.read u.ibuf j = Memory.read t.obuf j) →
      ∃ v, exec .crcChk u = .next v ∧ v.err = 0 ∧ v.crcv = t.crcv

/-- 40_crc.md section 2, marked there as general knowledge: flipping any one bit of the copied bytes makes
CRCCHK raise ChecksumMismatch. -/
def Obligations.SingleBitFlipIsDetected : Prop :=
  ∀ (s t u : State) (k bit : Nat), s.params.Legal → exec .crcApp s = .next t → t.err = 0 →
    u.params = s.params → u.ilen = t.olen → k < t.olen.toNat → bit < 8 →
    (∀ j, j < t.olen.toNat → j ≠ k → Memory.read u.ibuf j = Memory.read t.obuf j) →
    Memory.read u.ibuf k = (Memory.read t.obuf k).map (fun b => b ^^^ BitVec.ofNat 8 (2 ^ bit)) →
      ∃ v, exec .crcChk u = .next v ∧ v.err = 2

/-- 41_codec.md section 3, marked there as derived from R120: SWAP's output, copied into IBUF and swapped
again, is the input. -/
def Obligations.SwapTwiceRestoresTheInput : Prop :=
  ∀ s t u : State, exec .swap s = .next t → t.err = 0 → u.params = s.params → u.ilen = t.olen →
    (∀ j, j < t.olen.toNat → Memory.read u.ibuf j = Memory.read t.obuf j) →
      ∃ v, exec .swap u = .next v ∧ v.err = 0 ∧ v.olen = s.ilen ∧
        ∀ j, j < s.ilen.toNat → Memory.read v.obuf j = Memory.read s.ibuf j

/-- 41_codec.md section 3, marked there as derived from R124 and R125: the range of each decode's result. -/
def Obligations.DecodedValuesStayInRange : Prop :=
  ∀ (d : Byte) (sg : Signedness) (bo : ByteOrder) (s t : State), t.err = 0 →
    ((exec (.dec16 d sg bo) s = .next t ∨ exec (.rdec16 d sg bo) s = .next t) →
      (sg = .unsigned → 0 ≤ t.rval.toInt ∧ t.rval.toInt ≤ 65535) ∧
        (sg = .signed → -32768 ≤ t.rval.toInt ∧ t.rval.toInt ≤ 32767)) ∧
    ((exec (.dec32 d sg bo) s = .next t ∨ exec (.rdec32 d sg bo) s = .next t) →
      (sg = .unsigned → 0 ≤ t.rval.toInt ∧ t.rval.toInt ≤ 4294967295) ∧
        (sg = .signed → -2147483648 ≤ t.rval.toInt ∧ t.rval.toInt ≤ 2147483647))

/-- 41_codec.md R125: the decoded value is exactly v / 10^d, RKIND says whether d is 0, and with d = 0 the
host's number is the integer v. -/
def Obligations.DecodedValueIsTheExactQuotient : Prop :=
  ∀ (d : Byte) (sg : Signedness) (bo : ByteOrder) (s t : State), t.err = 0 →
    ∀ v : Int,
      ((exec (.dec16 d sg bo) s = .next t ∧ v = value16At s.pbuf 0 sg bo) ∨
        (exec (.dec32 d sg bo) s = .next t ∧ v = value32At s.pbuf 0 sg bo) ∨
        (exec (.rdec16 d sg bo) s = .next t ∧
          v = value16At s.ibuf (2 + s.params.payloadSkip) sg bo) ∨
        (exec (.rdec32 d sg bo) s = .next t ∧
          v = value32At s.ibuf (2 + s.params.payloadSkip) sg bo)) →
        t.rval.toInt = v ∧ t.rdec = d ∧ (t.rkind = 1 ↔ d ≠ 0) ∧
          decodedValue t = (v : ℚ) / (10 : ℚ) ^ d.toNat ∧
          (d = 0 → decodedValue t = (v : ℚ) ∧ hostNumber t = .integer v)

/-- The block right after reset meets the three invariants that every step keeps. -/
def Obligations.ResetMeetsTheInvariants : Prop :=
  State.reset.MemInv ∧ State.reset.RegInv ∧ State.reset.DiagInv

/-- The memory invariant (00_scope.md R7, 10_state.md R31, R37) survives every step from every state that
meets it. -/
def Obligations.EveryStepKeepsTheMemoryInvariant : Prop :=
  ∀ s t : State, s.MemInv → step s = .next t → t.MemInv

/-- The register invariant survives every step from every state that meets it. -/
def Obligations.EveryStepKeepsTheRegisterInvariant : Prop :=
  ∀ s t : State, s.RegInv → step s = .next t → t.RegInv

/-- DIAG fits ERR after every step from every state where it does, with legal parameters. -/
def Obligations.EveryStepKeepsDiagFittingErr : Prop :=
  ∀ s t : State, s.params.Legal → s.DiagInv → step s = .next t → t.DiagInv
end

