-- ==== Sys2Proof/Laws/Memory.lean ====
section
/-! SUPPORT. The laws of a buffer: what a read returns after a write, and that every operation keeps the
canonical form and the capacity (20_memory.md R52, R53). -/

namespace Sys2Proof.Machine

theorem Memory.read_write_self (m : Memory) (a : Nat) (b : Byte) :
    Memory.read (Memory.write m a b) a = some b := by
  induction m with
  | nil => simp [Memory.write, Memory.read]
  | cons c rest ih =>
    simp only [Memory.write]
    split
    · simp [Memory.read]
    · split
      · simp [Memory.read]
      · rename_i _ h
        simp [Memory.read, h, ih]

theorem Memory.read_write_other (m : Memory) {a a' : Nat} (b : Byte) (h : a' ≠ a) :
    Memory.read (Memory.write m a b) a' = Memory.read m a' := by
  induction m with
  | nil => simp [Memory.write, Memory.read, h]
  | cons c rest ih =>
    simp only [Memory.write]
    split
    · simp [Memory.read, h]
    · split
      · rename_i _ h'
        subst h'
        simp [Memory.read, h]
      · simp only [Memory.read, ih]

/-- `MemWrite` writes its bytes and leaves every other byte and mark alone (R53). -/
theorem Memory.read_writeBytes (bs : List Byte) (m : Memory) (i a : Nat) :
    Memory.read (Memory.writeBytes m i bs) a =
      if i ≤ a ∧ a < i + bs.length then bs[a - i]? else Memory.read m a := by
  induction bs generalizing m i with
  | nil =>
    simp only [Memory.writeBytes, List.length_nil]
    rw [if_neg (by omega)]
  | cons b bs ih =>
    simp only [Memory.writeBytes, ih, List.length_cons]
    by_cases h : a = i
    · subst h
      rw [if_neg (by omega), if_pos (by omega), Memory.read_write_self]
      simp
    · rw [Memory.read_write_other m b h]
      by_cases h' : i + 1 ≤ a ∧ a < i + 1 + bs.length
      · rw [if_pos h', if_pos (by omega)]
        obtain ⟨k, rfl⟩ : ∃ k, a = i + 1 + k := ⟨a - (i + 1), by omega⟩
        rw [show i + 1 + k - (i + 1) = k by omega, show i + 1 + k - i = k + 1 by omega]
        simp
      · rw [if_neg h', if_neg (by omega)]

/-- A byte within a write from index 0. -/
theorem Memory.read_writeBytes_lt (bs : List Byte) (m : Memory) {a : Nat} (h : a < bs.length) :
    Memory.read (Memory.writeBytes m 0 bs) a = bs[a]? := by
  rw [Memory.read_writeBytes, if_pos (by omega), Nat.sub_zero]

/-- A byte beyond a write from index 0. -/
theorem Memory.read_writeBytes_ge (bs : List Byte) (m : Memory) {a : Nat} (h : bs.length ≤ a) :
    Memory.read (Memory.writeBytes m 0 bs) a = Memory.read m a := by
  rw [Memory.read_writeBytes, if_neg (by omega)]

theorem Memory.all_write {P : Host.Cell → Bool} (m : Memory) (a : Nat) (b : Byte) :
    (P (a, b) = true ∧ m.all P = true) → (Memory.write m a b).all P = true := by
  induction m with
  | nil => simp [Memory.write]
  | cons c rest ih =>
    intro h
    simp only [List.all_cons, Bool.and_eq_true] at h
    simp only [Memory.write]
    split
    · simp [h]
    · split
      · simp [h]
      · simp [h, ih ⟨h.1, h.2.2⟩]

/-- A write keeps the canonical form. -/
theorem Memory.wf_write (m : Memory) (a : Nat) (b : Byte) (h : Memory.wf m = true) :
    Memory.wf (Memory.write m a b) = true := by
  induction m with
  | nil => rfl
  | cons c rest ih =>
    simp only [Memory.wf, Bool.and_eq_true] at h
    simp only [Memory.write]
    split
    · rename_i hlt
      have : rest.all (fun d => decide (a < d.1)) = true := by
        rw [List.all_eq_true] at h ⊢
        intro d hd
        have := h.1 d hd
        simp at this ⊢
        omega
      simp [Memory.wf, h, hlt, this]
    · split
      · rename_i heq
        subst heq
        simp [Memory.wf, h]
      · simp only [Memory.wf, Bool.and_eq_true]
        exact ⟨Memory.all_write rest a b ⟨by simp; omega, h.1⟩, ih h.2⟩

/-- A write below the capacity keeps every index below it. -/
theorem Memory.below_write {cap : Nat} (m : Memory) {a : Nat} (b : Byte) (ha : a < cap)
    (h : Memory.below cap m = true) : Memory.below cap (Memory.write m a b) = true :=
  Memory.all_write m a b ⟨by simpa using ha, h⟩

theorem Memory.wf_writeBytes (bs : List Byte) (m : Memory) (i : Nat) (h : Memory.wf m = true) :
    Memory.wf (Memory.writeBytes m i bs) = true := by
  induction bs generalizing m i with
  | nil => exact h
  | cons b bs ih => exact ih _ _ (Memory.wf_write m i b h)

theorem Memory.below_writeBytes {cap : Nat} (bs : List Byte) (m : Memory) (i : Nat)
    (hi : i + bs.length ≤ cap) (h : Memory.below cap m = true) :
    Memory.below cap (Memory.writeBytes m i bs) = true := by
  induction bs generalizing m i with
  | nil => exact h
  | cons b bs ih =>
    simp only [List.length_cons] at hi
    exact ih _ _ (by omega) (Memory.below_write m b (by omega) h)

/-- `MemWrite` within the capacity keeps a buffer's form. -/
theorem BufferForm.writeBytes {cap : Nat} {m : Memory} (h : BufferForm cap m) {i : Nat}
    {bs : List Byte} (hi : i + bs.length ≤ cap) : BufferForm cap (Memory.writeBytes m i bs) :=
  ⟨Memory.wf_writeBytes bs m i h.1, Memory.below_writeBytes bs m i hi h.2⟩

theorem byteOf_eq {m : Memory} {k : Nat} {b : Byte} (h : Memory.read m k = some b) :
    byteOf m k = b := by
  simp [byteOf, h]

theorem read_of_isSome {m : Memory} {k : Nat} (h : (Memory.read m k).isSome = true) :
    Memory.read m k = some (byteOf m k) := by
  obtain ⟨b, hb⟩ := Option.isSome_iff_exists.1 h
  rw [hb, byteOf_eq hb]

@[simp] theorem length_prefixOf (m : Memory) (n : Nat) : (prefixOf m n).length = n := by
  simp [prefixOf]

theorem getElem?_prefixOf (m : Memory) {n j : Nat} (h : j < n) :
    (prefixOf m n)[j]? = some (byteOf m j) := by
  simp [prefixOf, h]

@[simp] theorem byteAt_prefixOf (m : Memory) {n j : Nat} (h : j < n) :
    byteAt (prefixOf m n) j = byteOf m j := by
  simp [byteAt, getElem?_prefixOf m h]

theorem take_prefixOf (m : Memory) {n k : Nat} (h : k ≤ n) :
    (prefixOf m n).take k = prefixOf m k := by
  simp [prefixOf, ← List.map_take, List.take_range, Nat.min_eq_left h]

/-- Two buffers that agree below `n` have the same first `n` bytes. -/
theorem prefixOf_congr {m m' : Memory} {n : Nat}
    (h : ∀ j, j < n → Memory.read m j = Memory.read m' j) : prefixOf m n = prefixOf m' n := by
  apply List.map_congr_left
  intro j hj
  rw [byteOf, byteOf, h j (List.mem_range.1 hj)]

theorem Memory.readBytes_spec (m : Memory) (i n : Nat) :
    (∀ j, j < n → (Memory.read m (i + j)).isSome = true) →
      Memory.readBytes m i n = .ok ((List.range n).map fun j => byteOf m (i + j)) := by
  induction n generalizing i with
  | zero => intro _; rfl
  | succ n ih =>
    intro h
    have h0 := read_of_isSome (h 0 (by omega))
    have ht := ih (i + 1) fun j hj => by
      have := h (j + 1) (by omega)
      rwa [show i + (j + 1) = i + 1 + j by omega] at this
    simp only [Nat.add_zero] at h0
    simp only [Memory.readBytes, h0, ht]
    rw [List.range_succ_eq_map]
    simp [Function.comp_def, Nat.add_assoc, Nat.add_comm 1]

/-- `MemRead` of written bytes returns them (R52). -/
theorem Memory.readBytes_written {m : Memory} {n : Nat} (h : Written m n) :
    Memory.readBytes m 0 n = .ok (prefixOf m n) := by
  rw [Memory.readBytes_spec m 0 n fun j hj => by simpa using h j hj]
  simp [prefixOf]

/-- `MemRead` that meets an unwritten byte names one (R55). -/
theorem Memory.readBytes_error {m : Memory} {i n k : Nat}
    (h : Memory.readBytes m i n = .error k) :
    i ≤ k ∧ k < i + n ∧ Memory.read m k = none := by
  induction n generalizing i with
  | zero => simp [Memory.readBytes] at h
  | succ n ih =>
    simp only [Memory.readBytes] at h
    split at h
    · rename_i hn
      injection h with h
      subst h
      exact ⟨by omega, by omega, hn⟩
    · split at h
      · cases h
      · rename_i heq
        injection h with h
        subst h
        have := ih heq
        exact ⟨by omega, by omega, this.2.2⟩

/-- Either all bytes are written and `MemRead` returns them, or it names an unwritten one. -/
theorem Memory.readBytes_cases (m : Memory) (n : Nat) :
    (Written m n ∧ Memory.readBytes m 0 n = .ok (prefixOf m n)) ∨
      ∃ k, k < n ∧ Memory.read m k = none ∧ Memory.readBytes m 0 n = .error k := by
  by_cases h : Written m n
  · exact .inl ⟨h, Memory.readBytes_written h⟩
  · right
    cases hr : Memory.readBytes m 0 n with
    | error k =>
      have := Memory.readBytes_error hr
      exact ⟨k, by omega, this.2.2, rfl⟩
    | ok bs =>
      exfalso
      apply h
      clear h
      suffices H : ∀ i bs, Memory.readBytes m i n = .ok bs →
          ∀ j, j < n → (Memory.read m (i + j)).isSome = true by
        intro j hj
        simpa using H 0 bs hr j hj
      clear hr bs
      induction n with
      | zero => intro _ _ _ j hj; omega
      | succ n ih =>
        intro i bs hr j hj
        simp only [Memory.readBytes] at hr
        split at hr
        · cases hr
        · rename_i b hb
          split at hr
          · rename_i bs' hbs
            cases j with
            | zero => simp [hb]
            | succ j =>
              have := ih (i + 1) bs' hbs j (by omega)
              rwa [show i + 1 + j = i + (j + 1) by omega] at this
          · cases hr

end Sys2Proof.Machine
end

