-- ==== Sys2Proof/Laws/Crc.lean ====
section
/-! SUPPORT. Small laws of the CRC engine and the byte sequences of a frame (40_crc.md R100 to R102,
30_encoding.md R89, 41_codec.md R120). -/

namespace Sys2Proof.Machine

@[simp] theorem crc16_nil : crc16 [] = Config.crcInit := rfl

/-- One more byte is one more step (R100, R102). -/
theorem crc16_concat (s : List Byte) (b : Byte) : crc16 (s ++ [b]) = crcStep (crc16 s) b := by
  simp [crc16]

theorem crc16_append (s t : List Byte) : crc16 (s ++ t) = t.foldl crcStep (crc16 s) := by
  simp [crc16]

@[simp] theorem toWire_length (c : Half) : (toWire c).length = 2 := rfl

@[simp] theorem crcBytes_length (s : List Byte) : (crcBytes s).length = 2 := rfl

@[simp] theorem requestBody_length (sa fc : Byte) (a n : Half) :
    (requestBody sa fc a n).length = 6 := rfl

/-- The two wire bytes put together again (R89). -/
theorem fromWire_toWire (c : Half) : fromWire (c.extractLsb' 0 8) (c.extractLsb' 8 8) = c := by
  apply BitVec.eq_of_getLsbD_eq
  intro i hi
  by_cases h : i < 8
  · simp [fromWire, h, hi]
  · simp [fromWire, h, show i - 8 < 8 by omega, show 8 + (i - 8) = i by omega, hi]

/-- Numbers whose bits do not meet: OR is addition. -/
theorem or_shift_eq_add (x y k : Nat) (h : x < 2 ^ k) : x ||| y <<< k = x + y * 2 ^ k := by
  rw [Nat.or_comm, Nat.shiftLeft_eq, Nat.mul_comm, ← Nat.two_pow_add_eq_or_of_lt h]
  omega

/-- A received CRC as a number: `lo | hi << 8` (R89). -/
theorem fromWire_toNat (lo hi : Byte) : (fromWire lo hi).toNat = wireNumber lo hi := by
  have hl := lo.isLt
  have hh := hi.isLt
  simp only [fromWire, BitVec.toNat_or, BitVec.toNat_shiftLeft, BitVec.toNat_setWidth]
  rw [Nat.mod_eq_of_lt (show lo.toNat < 2 ^ 16 by omega),
    Nat.mod_eq_of_lt (show hi.toNat < 2 ^ 16 by omega),
    Nat.mod_eq_of_lt (by rw [Nat.shiftLeft_eq]; omega), or_shift_eq_add _ _ 8 (by omega),
    wireNumber]
  omega

theorem fromWire_eq_ofNat (lo hi : Byte) :
    fromWire lo hi = BitVec.ofNat 16 (wireNumber lo hi) := by
  apply BitVec.eq_of_toNat_eq
  have hl := lo.isLt
  have hh := hi.isLt
  rw [fromWire_toNat, BitVec.toNat_ofNat, wireNumber, Nat.mod_eq_of_lt (by omega)]

@[simp] theorem swapPairs_length (s : List Byte) : (swapPairs s).length = s.length := by
  induction s using swapPairs.induct with
  | case1 a b rest ih => simp [swapPairs, ih]
  | case2 rest h => rw [swapPairs]; exact h

/-- The CRC halves of a frame held in IBUF (R107, 42_frame.md R142). -/
theorem trailingCrc_prefixOf (m : Memory) {n : Nat} (h : 2 ≤ n) :
    trailingCrc (prefixOf m n) =
      (crc16 (prefixOf m (n - 2)), fromWire (byteOf m (n - 2)) (byteOf m (n - 1))) := by
  simp only [trailingCrc, length_prefixOf, slice, List.drop_zero]
  rw [take_prefixOf m (by omega), byteAt_prefixOf m (by omega), byteAt_prefixOf m (by omega)]

/-- The payload of a frame held in IBUF (42_frame.md R142). -/
theorem payload_prefixOf (m : Memory) {n : Nat} (_h : 4 ≤ n) :
    (slice (prefixOf m n) 2 (n - 2)).length = n - 4 ∧
      ∀ j, j < n - 4 → (slice (prefixOf m n) 2 (n - 2))[j]? = some (byteOf m (j + 2)) := by
  rw [slice, take_prefixOf m (by omega)]
  refine ⟨by simp; omega, fun j hj => ?_⟩
  rw [List.getElem?_drop, getElem?_prefixOf m (by omega), Nat.add_comm]

end Sys2Proof.Machine
end

