-- ==== Sys2Proof/Laws/State.lean ====
section
/-! SUPPORT. One lemma per field of State per named update, so that no proof unfolds a record update. -/

namespace Sys2Proof.Machine

/-! ### setBuf ibuf -/

@[simp] theorem State.setBuf_ibuf_params (s : State) (m : Memory) :
    (s.setBuf .ibuf m).params = s.params := rfl
@[simp] theorem State.setBuf_ibuf_cmd (s : State) (m : Memory) :
    (s.setBuf .ibuf m).cmd = s.cmd := rfl
@[simp] theorem State.setBuf_ibuf_err (s : State) (m : Memory) :
    (s.setBuf .ibuf m).err = s.err := rfl
@[simp] theorem State.setBuf_ibuf_lastOp (s : State) (m : Memory) :
    (s.setBuf .ibuf m).lastOp = s.lastOp := rfl
@[simp] theorem State.setBuf_ibuf_expv (s : State) (m : Memory) :
    (s.setBuf .ibuf m).expv = s.expv := rfl
@[simp] theorem State.setBuf_ibuf_rcvv (s : State) (m : Memory) :
    (s.setBuf .ibuf m).rcvv = s.rcvv := rfl
@[simp] theorem State.setBuf_ibuf_slave (s : State) (m : Memory) :
    (s.setBuf .ibuf m).slave = s.slave := rfl
@[simp] theorem State.setBuf_ibuf_fc (s : State) (m : Memory) :
    (s.setBuf .ibuf m).fc = s.fc := rfl
@[simp] theorem State.setBuf_ibuf_regAddr (s : State) (m : Memory) :
    (s.setBuf .ibuf m).regAddr = s.regAddr := rfl
@[simp] theorem State.setBuf_ibuf_regCount (s : State) (m : Memory) :
    (s.setBuf .ibuf m).regCount = s.regCount := rfl
@[simp] theorem State.setBuf_ibuf_ilen (s : State) (m : Memory) :
    (s.setBuf .ibuf m).ilen = s.ilen := rfl
@[simp] theorem State.setBuf_ibuf_olen (s : State) (m : Memory) :
    (s.setBuf .ibuf m).olen = s.olen := rfl
@[simp] theorem State.setBuf_ibuf_plen (s : State) (m : Memory) :
    (s.setBuf .ibuf m).plen = s.plen := rfl
@[simp] theorem State.setBuf_ibuf_rval (s : State) (m : Memory) :
    (s.setBuf .ibuf m).rval = s.rval := rfl
@[simp] theorem State.setBuf_ibuf_rdec (s : State) (m : Memory) :
    (s.setBuf .ibuf m).rdec = s.rdec := rfl
@[simp] theorem State.setBuf_ibuf_rkind (s : State) (m : Memory) :
    (s.setBuf .ibuf m).rkind = s.rkind := rfl
@[simp] theorem State.setBuf_ibuf_crcv (s : State) (m : Memory) :
    (s.setBuf .ibuf m).crcv = s.crcv := rfl
@[simp] theorem State.setBuf_ibuf_ibuf (s : State) (m : Memory) :
    (s.setBuf .ibuf m).ibuf = m := rfl
@[simp] theorem State.setBuf_ibuf_obuf (s : State) (m : Memory) :
    (s.setBuf .ibuf m).obuf = s.obuf := rfl
@[simp] theorem State.setBuf_ibuf_pbuf (s : State) (m : Memory) :
    (s.setBuf .ibuf m).pbuf = s.pbuf := rfl
@[simp] theorem State.setBuf_ibuf_pending (s : State) (m : Memory) :
    (s.setBuf .ibuf m).pending = s.pending := rfl
@[simp] theorem State.setBuf_ibuf_replies (s : State) (m : Memory) :
    (s.setBuf .ibuf m).replies = s.replies := rfl
@[simp] theorem State.setBuf_ibuf_draws (s : State) (m : Memory) :
    (s.setBuf .ibuf m).draws = s.draws := rfl

/-! ### setBuf obuf -/

@[simp] theorem State.setBuf_obuf_params (s : State) (m : Memory) :
    (s.setBuf .obuf m).params = s.params := rfl
@[simp] theorem State.setBuf_obuf_cmd (s : State) (m : Memory) :
    (s.setBuf .obuf m).cmd = s.cmd := rfl
@[simp] theorem State.setBuf_obuf_err (s : State) (m : Memory) :
    (s.setBuf .obuf m).err = s.err := rfl
@[simp] theorem State.setBuf_obuf_lastOp (s : State) (m : Memory) :
    (s.setBuf .obuf m).lastOp = s.lastOp := rfl
@[simp] theorem State.setBuf_obuf_expv (s : State) (m : Memory) :
    (s.setBuf .obuf m).expv = s.expv := rfl
@[simp] theorem State.setBuf_obuf_rcvv (s : State) (m : Memory) :
    (s.setBuf .obuf m).rcvv = s.rcvv := rfl
@[simp] theorem State.setBuf_obuf_slave (s : State) (m : Memory) :
    (s.setBuf .obuf m).slave = s.slave := rfl
@[simp] theorem State.setBuf_obuf_fc (s : State) (m : Memory) :
    (s.setBuf .obuf m).fc = s.fc := rfl
@[simp] theorem State.setBuf_obuf_regAddr (s : State) (m : Memory) :
    (s.setBuf .obuf m).regAddr = s.regAddr := rfl
@[simp] theorem State.setBuf_obuf_regCount (s : State) (m : Memory) :
    (s.setBuf .obuf m).regCount = s.regCount := rfl
@[simp] theorem State.setBuf_obuf_ilen (s : State) (m : Memory) :
    (s.setBuf .obuf m).ilen = s.ilen := rfl
@[simp] theorem State.setBuf_obuf_olen (s : State) (m : Memory) :
    (s.setBuf .obuf m).olen = s.olen := rfl
@[simp] theorem State.setBuf_obuf_plen (s : State) (m : Memory) :
    (s.setBuf .obuf m).plen = s.plen := rfl
@[simp] theorem State.setBuf_obuf_rval (s : State) (m : Memory) :
    (s.setBuf .obuf m).rval = s.rval := rfl
@[simp] theorem State.setBuf_obuf_rdec (s : State) (m : Memory) :
    (s.setBuf .obuf m).rdec = s.rdec := rfl
@[simp] theorem State.setBuf_obuf_rkind (s : State) (m : Memory) :
    (s.setBuf .obuf m).rkind = s.rkind := rfl
@[simp] theorem State.setBuf_obuf_crcv (s : State) (m : Memory) :
    (s.setBuf .obuf m).crcv = s.crcv := rfl
@[simp] theorem State.setBuf_obuf_ibuf (s : State) (m : Memory) :
    (s.setBuf .obuf m).ibuf = s.ibuf := rfl
@[simp] theorem State.setBuf_obuf_obuf (s : State) (m : Memory) :
    (s.setBuf .obuf m).obuf = m := rfl
@[simp] theorem State.setBuf_obuf_pbuf (s : State) (m : Memory) :
    (s.setBuf .obuf m).pbuf = s.pbuf := rfl
@[simp] theorem State.setBuf_obuf_pending (s : State) (m : Memory) :
    (s.setBuf .obuf m).pending = s.pending := rfl
@[simp] theorem State.setBuf_obuf_replies (s : State) (m : Memory) :
    (s.setBuf .obuf m).replies = s.replies := rfl
@[simp] theorem State.setBuf_obuf_draws (s : State) (m : Memory) :
    (s.setBuf .obuf m).draws = s.draws := rfl

/-! ### setBuf pbuf -/

@[simp] theorem State.setBuf_pbuf_params (s : State) (m : Memory) :
    (s.setBuf .pbuf m).params = s.params := rfl
@[simp] theorem State.setBuf_pbuf_cmd (s : State) (m : Memory) :
    (s.setBuf .pbuf m).cmd = s.cmd := rfl
@[simp] theorem State.setBuf_pbuf_err (s : State) (m : Memory) :
    (s.setBuf .pbuf m).err = s.err := rfl
@[simp] theorem State.setBuf_pbuf_lastOp (s : State) (m : Memory) :
    (s.setBuf .pbuf m).lastOp = s.lastOp := rfl
@[simp] theorem State.setBuf_pbuf_expv (s : State) (m : Memory) :
    (s.setBuf .pbuf m).expv = s.expv := rfl
@[simp] theorem State.setBuf_pbuf_rcvv (s : State) (m : Memory) :
    (s.setBuf .pbuf m).rcvv = s.rcvv := rfl
@[simp] theorem State.setBuf_pbuf_slave (s : State) (m : Memory) :
    (s.setBuf .pbuf m).slave = s.slave := rfl
@[simp] theorem State.setBuf_pbuf_fc (s : State) (m : Memory) :
    (s.setBuf .pbuf m).fc = s.fc := rfl
@[simp] theorem State.setBuf_pbuf_regAddr (s : State) (m : Memory) :
    (s.setBuf .pbuf m).regAddr = s.regAddr := rfl
@[simp] theorem State.setBuf_pbuf_regCount (s : State) (m : Memory) :
    (s.setBuf .pbuf m).regCount = s.regCount := rfl
@[simp] theorem State.setBuf_pbuf_ilen (s : State) (m : Memory) :
    (s.setBuf .pbuf m).ilen = s.ilen := rfl
@[simp] theorem State.setBuf_pbuf_olen (s : State) (m : Memory) :
    (s.setBuf .pbuf m).olen = s.olen := rfl
@[simp] theorem State.setBuf_pbuf_plen (s : State) (m : Memory) :
    (s.setBuf .pbuf m).plen = s.plen := rfl
@[simp] theorem State.setBuf_pbuf_rval (s : State) (m : Memory) :
    (s.setBuf .pbuf m).rval = s.rval := rfl
@[simp] theorem State.setBuf_pbuf_rdec (s : State) (m : Memory) :
    (s.setBuf .pbuf m).rdec = s.rdec := rfl
@[simp] theorem State.setBuf_pbuf_rkind (s : State) (m : Memory) :
    (s.setBuf .pbuf m).rkind = s.rkind := rfl
@[simp] theorem State.setBuf_pbuf_crcv (s : State) (m : Memory) :
    (s.setBuf .pbuf m).crcv = s.crcv := rfl
@[simp] theorem State.setBuf_pbuf_ibuf (s : State) (m : Memory) :
    (s.setBuf .pbuf m).ibuf = s.ibuf := rfl
@[simp] theorem State.setBuf_pbuf_obuf (s : State) (m : Memory) :
    (s.setBuf .pbuf m).obuf = s.obuf := rfl
@[simp] theorem State.setBuf_pbuf_pbuf (s : State) (m : Memory) :
    (s.setBuf .pbuf m).pbuf = m := rfl
@[simp] theorem State.setBuf_pbuf_pending (s : State) (m : Memory) :
    (s.setBuf .pbuf m).pending = s.pending := rfl
@[simp] theorem State.setBuf_pbuf_replies (s : State) (m : Memory) :
    (s.setBuf .pbuf m).replies = s.replies := rfl
@[simp] theorem State.setBuf_pbuf_draws (s : State) (m : Memory) :
    (s.setBuf .pbuf m).draws = s.draws := rfl

/-! ### memWrite ibuf -/

@[simp] theorem State.memWrite_ibuf_params (s : State) (i : Nat) (bs : List Byte) :
    (s.memWrite .ibuf i bs).params = s.params := rfl
@[simp] theorem State.memWrite_ibuf_cmd (s : State) (i : Nat) (bs : List Byte) :
    (s.memWrite .ibuf i bs).cmd = s.cmd := rfl
@[simp] theorem State.memWrite_ibuf_err (s : State) (i : Nat) (bs : List Byte) :
    (s.memWrite .ibuf i bs).err = s.err := rfl
@[simp] theorem State.memWrite_ibuf_lastOp (s : State) (i : Nat) (bs : List Byte) :
    (s.memWrite .ibuf i bs).lastOp = s.lastOp := rfl
@[simp] theorem State.memWrite_ibuf_expv (s : State) (i : Nat) (bs : List Byte) :
    (s.memWrite .ibuf i bs).expv = s.expv := rfl
@[simp] theorem State.memWrite_ibuf_rcvv (s : State) (i : Nat) (bs : List Byte) :
    (s.memWrite .ibuf i bs).rcvv = s.rcvv := rfl
@[simp] theorem State.memWrite_ibuf_slave (s : State) (i : Nat) (bs : List Byte) :
    (s.memWrite .ibuf i bs).slave = s.slave := rfl
@[simp] theorem State.memWrite_ibuf_fc (s : State) (i : Nat) (bs : List Byte) :
    (s.memWrite .ibuf i bs).fc = s.fc := rfl
@[simp] theorem State.memWrite_ibuf_regAddr (s : State) (i : Nat) (bs : List Byte) :
    (s.memWrite .ibuf i bs).regAddr = s.regAddr := rfl
@[simp] theorem State.memWrite_ibuf_regCount (s : State) (i : Nat) (bs : List Byte) :
    (s.memWrite .ibuf i bs).regCount = s.regCount := rfl
@[simp] theorem State.memWrite_ibuf_ilen (s : State) (i : Nat) (bs : List Byte) :
    (s.memWrite .ibuf i bs).ilen = s.ilen := rfl
@[simp] theorem State.memWrite_ibuf_olen (s : State) (i : Nat) (bs : List Byte) :
    (s.memWrite .ibuf i bs).olen = s.olen := rfl
@[simp] theorem State.memWrite_ibuf_plen (s : State) (i : Nat) (bs : List Byte) :
    (s.memWrite .ibuf i bs).plen = s.plen := rfl
@[simp] theorem State.memWrite_ibuf_rval (s : State) (i : Nat) (bs : List Byte) :
    (s.memWrite .ibuf i bs).rval = s.rval := rfl
@[simp] theorem State.memWrite_ibuf_rdec (s : State) (i : Nat) (bs : List Byte) :
    (s.memWrite .ibuf i bs).rdec = s.rdec := rfl
@[simp] theorem State.memWrite_ibuf_rkind (s : State) (i : Nat) (bs : List Byte) :
    (s.memWrite .ibuf i bs).rkind = s.rkind := rfl
@[simp] theorem State.memWrite_ibuf_crcv (s : State) (i : Nat) (bs : List Byte) :
    (s.memWrite .ibuf i bs).crcv = s.crcv := rfl
@[simp] theorem State.memWrite_ibuf_ibuf (s : State) (i : Nat) (bs : List Byte) :
    (s.memWrite .ibuf i bs).ibuf = Memory.writeBytes s.ibuf i bs := rfl
@[simp] theorem State.memWrite_ibuf_obuf (s : State) (i : Nat) (bs : List Byte) :
    (s.memWrite .ibuf i bs).obuf = s.obuf := rfl
@[simp] theorem State.memWrite_ibuf_pbuf (s : State) (i : Nat) (bs : List Byte) :
    (s.memWrite .ibuf i bs).pbuf = s.pbuf := rfl
@[simp] theorem State.memWrite_ibuf_pending (s : State) (i : Nat) (bs : List Byte) :
    (s.memWrite .ibuf i bs).pending = s.pending := rfl
@[simp] theorem State.memWrite_ibuf_replies (s : State) (i : Nat) (bs : List Byte) :
    (s.memWrite .ibuf i bs).replies = s.replies := rfl
@[simp] theorem State.memWrite_ibuf_draws (s : State) (i : Nat) (bs : List Byte) :
    (s.memWrite .ibuf i bs).draws = s.draws := rfl

/-! ### memWrite obuf -/

@[simp] theorem State.memWrite_obuf_params (s : State) (i : Nat) (bs : List Byte) :
    (s.memWrite .obuf i bs).params = s.params := rfl
@[simp] theorem State.memWrite_obuf_cmd (s : State) (i : Nat) (bs : List Byte) :
    (s.memWrite .obuf i bs).cmd = s.cmd := rfl
@[simp] theorem State.memWrite_obuf_err (s : State) (i : Nat) (bs : List Byte) :
    (s.memWrite .obuf i bs).err = s.err := rfl
@[simp] theorem State.memWrite_obuf_lastOp (s : State) (i : Nat) (bs : List Byte) :
    (s.memWrite .obuf i bs).lastOp = s.lastOp := rfl
@[simp] theorem State.memWrite_obuf_expv (s : State) (i : Nat) (bs : List Byte) :
    (s.memWrite .obuf i bs).expv = s.expv := rfl
@[simp] theorem State.memWrite_obuf_rcvv (s : State) (i : Nat) (bs : List Byte) :
    (s.memWrite .obuf i bs).rcvv = s.rcvv := rfl
@[simp] theorem State.memWrite_obuf_slave (s : State) (i : Nat) (bs : List Byte) :
    (s.memWrite .obuf i bs).slave = s.slave := rfl
@[simp] theorem State.memWrite_obuf_fc (s : State) (i : Nat) (bs : List Byte) :
    (s.memWrite .obuf i bs).fc = s.fc := rfl
@[simp] theorem State.memWrite_obuf_regAddr (s : State) (i : Nat) (bs : List Byte) :
    (s.memWrite .obuf i bs).regAddr = s.regAddr := rfl
@[simp] theorem State.memWrite_obuf_regCount (s : State) (i : Nat) (bs : List Byte) :
    (s.memWrite .obuf i bs).regCount = s.regCount := rfl
@[simp] theorem State.memWrite_obuf_ilen (s : State) (i : Nat) (bs : List Byte) :
    (s.memWrite .obuf i bs).ilen = s.ilen := rfl
@[simp] theorem State.memWrite_obuf_olen (s : State) (i : Nat) (bs : List Byte) :
    (s.memWrite .obuf i bs).olen = s.olen := rfl
@[simp] theorem State.memWrite_obuf_plen (s : State) (i : Nat) (bs : List Byte) :
    (s.memWrite .obuf i bs).plen = s.plen := rfl
@[simp] theorem State.memWrite_obuf_rval (s : State) (i : Nat) (bs : List Byte) :
    (s.memWrite .obuf i bs).rval = s.rval := rfl
@[simp] theorem State.memWrite_obuf_rdec (s : State) (i : Nat) (bs : List Byte) :
    (s.memWrite .obuf i bs).rdec = s.rdec := rfl
@[simp] theorem State.memWrite_obuf_rkind (s : State) (i : Nat) (bs : List Byte) :
    (s.memWrite .obuf i bs).rkind = s.rkind := rfl
@[simp] theorem State.memWrite_obuf_crcv (s : State) (i : Nat) (bs : List Byte) :
    (s.memWrite .obuf i bs).crcv = s.crcv := rfl
@[simp] theorem State.memWrite_obuf_ibuf (s : State) (i : Nat) (bs : List Byte) :
    (s.memWrite .obuf i bs).ibuf = s.ibuf := rfl
@[simp] theorem State.memWrite_obuf_obuf (s : State) (i : Nat) (bs : List Byte) :
    (s.memWrite .obuf i bs).obuf = Memory.writeBytes s.obuf i bs := rfl
@[simp] theorem State.memWrite_obuf_pbuf (s : State) (i : Nat) (bs : List Byte) :
    (s.memWrite .obuf i bs).pbuf = s.pbuf := rfl
@[simp] theorem State.memWrite_obuf_pending (s : State) (i : Nat) (bs : List Byte) :
    (s.memWrite .obuf i bs).pending = s.pending := rfl
@[simp] theorem State.memWrite_obuf_replies (s : State) (i : Nat) (bs : List Byte) :
    (s.memWrite .obuf i bs).replies = s.replies := rfl
@[simp] theorem State.memWrite_obuf_draws (s : State) (i : Nat) (bs : List Byte) :
    (s.memWrite .obuf i bs).draws = s.draws := rfl

/-! ### memWrite pbuf -/

@[simp] theorem State.memWrite_pbuf_params (s : State) (i : Nat) (bs : List Byte) :
    (s.memWrite .pbuf i bs).params = s.params := rfl
@[simp] theorem State.memWrite_pbuf_cmd (s : State) (i : Nat) (bs : List Byte) :
    (s.memWrite .pbuf i bs).cmd = s.cmd := rfl
@[simp] theorem State.memWrite_pbuf_err (s : State) (i : Nat) (bs : List Byte) :
    (s.memWrite .pbuf i bs).err = s.err := rfl
@[simp] theorem State.memWrite_pbuf_lastOp (s : State) (i : Nat) (bs : List Byte) :
    (s.memWrite .pbuf i bs).lastOp = s.lastOp := rfl
@[simp] theorem State.memWrite_pbuf_expv (s : State) (i : Nat) (bs : List Byte) :
    (s.memWrite .pbuf i bs).expv = s.expv := rfl
@[simp] theorem State.memWrite_pbuf_rcvv (s : State) (i : Nat) (bs : List Byte) :
    (s.memWrite .pbuf i bs).rcvv = s.rcvv := rfl
@[simp] theorem State.memWrite_pbuf_slave (s : State) (i : Nat) (bs : List Byte) :
    (s.memWrite .pbuf i bs).slave = s.slave := rfl
@[simp] theorem State.memWrite_pbuf_fc (s : State) (i : Nat) (bs : List Byte) :
    (s.memWrite .pbuf i bs).fc = s.fc := rfl
@[simp] theorem State.memWrite_pbuf_regAddr (s : State) (i : Nat) (bs : List Byte) :
    (s.memWrite .pbuf i bs).regAddr = s.regAddr := rfl
@[simp] theorem State.memWrite_pbuf_regCount (s : State) (i : Nat) (bs : List Byte) :
    (s.memWrite .pbuf i bs).regCount = s.regCount := rfl
@[simp] theorem State.memWrite_pbuf_ilen (s : State) (i : Nat) (bs : List Byte) :
    (s.memWrite .pbuf i bs).ilen = s.ilen := rfl
@[simp] theorem State.memWrite_pbuf_olen (s : State) (i : Nat) (bs : List Byte) :
    (s.memWrite .pbuf i bs).olen = s.olen := rfl
@[simp] theorem State.memWrite_pbuf_plen (s : State) (i : Nat) (bs : List Byte) :
    (s.memWrite .pbuf i bs).plen = s.plen := rfl
@[simp] theorem State.memWrite_pbuf_rval (s : State) (i : Nat) (bs : List Byte) :
    (s.memWrite .pbuf i bs).rval = s.rval := rfl
@[simp] theorem State.memWrite_pbuf_rdec (s : State) (i : Nat) (bs : List Byte) :
    (s.memWrite .pbuf i bs).rdec = s.rdec := rfl
@[simp] theorem State.memWrite_pbuf_rkind (s : State) (i : Nat) (bs : List Byte) :
    (s.memWrite .pbuf i bs).rkind = s.rkind := rfl
@[simp] theorem State.memWrite_pbuf_crcv (s : State) (i : Nat) (bs : List Byte) :
    (s.memWrite .pbuf i bs).crcv = s.crcv := rfl
@[simp] theorem State.memWrite_pbuf_ibuf (s : State) (i : Nat) (bs : List Byte) :
    (s.memWrite .pbuf i bs).ibuf = s.ibuf := rfl
@[simp] theorem State.memWrite_pbuf_obuf (s : State) (i : Nat) (bs : List Byte) :
    (s.memWrite .pbuf i bs).obuf = s.obuf := rfl
@[simp] theorem State.memWrite_pbuf_pbuf (s : State) (i : Nat) (bs : List Byte) :
    (s.memWrite .pbuf i bs).pbuf = Memory.writeBytes s.pbuf i bs := rfl
@[simp] theorem State.memWrite_pbuf_pending (s : State) (i : Nat) (bs : List Byte) :
    (s.memWrite .pbuf i bs).pending = s.pending := rfl
@[simp] theorem State.memWrite_pbuf_replies (s : State) (i : Nat) (bs : List Byte) :
    (s.memWrite .pbuf i bs).replies = s.replies := rfl
@[simp] theorem State.memWrite_pbuf_draws (s : State) (i : Nat) (bs : List Byte) :
    (s.memWrite .pbuf i bs).draws = s.draws := rfl

/-! ### putOutput -/

@[simp] theorem State.putOutput_params (s : State) (bs : List Byte) :
    (s.putOutput bs).params = s.params := rfl
@[simp] theorem State.putOutput_cmd (s : State) (bs : List Byte) :
    (s.putOutput bs).cmd = s.cmd := rfl
@[simp] theorem State.putOutput_err (s : State) (bs : List Byte) :
    (s.putOutput bs).err = s.err := rfl
@[simp] theorem State.putOutput_lastOp (s : State) (bs : List Byte) :
    (s.putOutput bs).lastOp = s.lastOp := rfl
@[simp] theorem State.putOutput_expv (s : State) (bs : List Byte) :
    (s.putOutput bs).expv = s.expv := rfl
@[simp] theorem State.putOutput_rcvv (s : State) (bs : List Byte) :
    (s.putOutput bs).rcvv = s.rcvv := rfl
@[simp] theorem State.putOutput_slave (s : State) (bs : List Byte) :
    (s.putOutput bs).slave = s.slave := rfl
@[simp] theorem State.putOutput_fc (s : State) (bs : List Byte) :
    (s.putOutput bs).fc = s.fc := rfl
@[simp] theorem State.putOutput_regAddr (s : State) (bs : List Byte) :
    (s.putOutput bs).regAddr = s.regAddr := rfl
@[simp] theorem State.putOutput_regCount (s : State) (bs : List Byte) :
    (s.putOutput bs).regCount = s.regCount := rfl
@[simp] theorem State.putOutput_ilen (s : State) (bs : List Byte) :
    (s.putOutput bs).ilen = s.ilen := rfl
@[simp] theorem State.putOutput_olen (s : State) (bs : List Byte) :
    (s.putOutput bs).olen = half bs.length := rfl
@[simp] theorem State.putOutput_plen (s : State) (bs : List Byte) :
    (s.putOutput bs).plen = s.plen := rfl
@[simp] theorem State.putOutput_rval (s : State) (bs : List Byte) :
    (s.putOutput bs).rval = s.rval := rfl
@[simp] theorem State.putOutput_rdec (s : State) (bs : List Byte) :
    (s.putOutput bs).rdec = s.rdec := rfl
@[simp] theorem State.putOutput_rkind (s : State) (bs : List Byte) :
    (s.putOutput bs).rkind = s.rkind := rfl
@[simp] theorem State.putOutput_crcv (s : State) (bs : List Byte) :
    (s.putOutput bs).crcv = s.crcv := rfl
@[simp] theorem State.putOutput_ibuf (s : State) (bs : List Byte) :
    (s.putOutput bs).ibuf = s.ibuf := rfl
@[simp] theorem State.putOutput_obuf (s : State) (bs : List Byte) :
    (s.putOutput bs).obuf = Memory.writeBytes s.obuf 0 bs := rfl
@[simp] theorem State.putOutput_pbuf (s : State) (bs : List Byte) :
    (s.putOutput bs).pbuf = s.pbuf := rfl
@[simp] theorem State.putOutput_pending (s : State) (bs : List Byte) :
    (s.putOutput bs).pending = s.pending := rfl
@[simp] theorem State.putOutput_replies (s : State) (bs : List Byte) :
    (s.putOutput bs).replies = s.replies := rfl
@[simp] theorem State.putOutput_draws (s : State) (bs : List Byte) :
    (s.putOutput bs).draws = s.draws := rfl

/-! ### putPayload -/

@[simp] theorem State.putPayload_params (s : State) (bs : List Byte) :
    (s.putPayload bs).params = s.params := rfl
@[simp] theorem State.putPayload_cmd (s : State) (bs : List Byte) :
    (s.putPayload bs).cmd = s.cmd := rfl
@[simp] theorem State.putPayload_err (s : State) (bs : List Byte) :
    (s.putPayload bs).err = s.err := rfl
@[simp] theorem State.putPayload_lastOp (s : State) (bs : List Byte) :
    (s.putPayload bs).lastOp = s.lastOp := rfl
@[simp] theorem State.putPayload_expv (s : State) (bs : List Byte) :
    (s.putPayload bs).expv = s.expv := rfl
@[simp] theorem State.putPayload_rcvv (s : State) (bs : List Byte) :
    (s.putPayload bs).rcvv = s.rcvv := rfl
@[simp] theorem State.putPayload_slave (s : State) (bs : List Byte) :
    (s.putPayload bs).slave = s.slave := rfl
@[simp] theorem State.putPayload_fc (s : State) (bs : List Byte) :
    (s.putPayload bs).fc = s.fc := rfl
@[simp] theorem State.putPayload_regAddr (s : State) (bs : List Byte) :
    (s.putPayload bs).regAddr = s.regAddr := rfl
@[simp] theorem State.putPayload_regCount (s : State) (bs : List Byte) :
    (s.putPayload bs).regCount = s.regCount := rfl
@[simp] theorem State.putPayload_ilen (s : State) (bs : List Byte) :
    (s.putPayload bs).ilen = s.ilen := rfl
@[simp] theorem State.putPayload_olen (s : State) (bs : List Byte) :
    (s.putPayload bs).olen = s.olen := rfl
@[simp] theorem State.putPayload_plen (s : State) (bs : List Byte) :
    (s.putPayload bs).plen = half bs.length := rfl
@[simp] theorem State.putPayload_rval (s : State) (bs : List Byte) :
    (s.putPayload bs).rval = s.rval := rfl
@[simp] theorem State.putPayload_rdec (s : State) (bs : List Byte) :
    (s.putPayload bs).rdec = s.rdec := rfl
@[simp] theorem State.putPayload_rkind (s : State) (bs : List Byte) :
    (s.putPayload bs).rkind = s.rkind := rfl
@[simp] theorem State.putPayload_crcv (s : State) (bs : List Byte) :
    (s.putPayload bs).crcv = s.crcv := rfl
@[simp] theorem State.putPayload_ibuf (s : State) (bs : List Byte) :
    (s.putPayload bs).ibuf = s.ibuf := rfl
@[simp] theorem State.putPayload_obuf (s : State) (bs : List Byte) :
    (s.putPayload bs).obuf = s.obuf := rfl
@[simp] theorem State.putPayload_pbuf (s : State) (bs : List Byte) :
    (s.putPayload bs).pbuf = Memory.writeBytes s.pbuf 0 bs := rfl
@[simp] theorem State.putPayload_pending (s : State) (bs : List Byte) :
    (s.putPayload bs).pending = s.pending := rfl
@[simp] theorem State.putPayload_replies (s : State) (bs : List Byte) :
    (s.putPayload bs).replies = s.replies := rfl
@[simp] theorem State.putPayload_draws (s : State) (bs : List Byte) :
    (s.putPayload bs).draws = s.draws := rfl

/-! ### putCrc -/

@[simp] theorem State.putCrc_params (s : State) (c : Half) :
    (s.putCrc c).params = s.params := rfl
@[simp] theorem State.putCrc_cmd (s : State) (c : Half) :
    (s.putCrc c).cmd = s.cmd := rfl
@[simp] theorem State.putCrc_err (s : State) (c : Half) :
    (s.putCrc c).err = s.err := rfl
@[simp] theorem State.putCrc_lastOp (s : State) (c : Half) :
    (s.putCrc c).lastOp = s.lastOp := rfl
@[simp] theorem State.putCrc_expv (s : State) (c : Half) :
    (s.putCrc c).expv = s.expv := rfl
@[simp] theorem State.putCrc_rcvv (s : State) (c : Half) :
    (s.putCrc c).rcvv = s.rcvv := rfl
@[simp] theorem State.putCrc_slave (s : State) (c : Half) :
    (s.putCrc c).slave = s.slave := rfl
@[simp] theorem State.putCrc_fc (s : State) (c : Half) :
    (s.putCrc c).fc = s.fc := rfl
@[simp] theorem State.putCrc_regAddr (s : State) (c : Half) :
    (s.putCrc c).regAddr = s.regAddr := rfl
@[simp] theorem State.putCrc_regCount (s : State) (c : Half) :
    (s.putCrc c).regCount = s.regCount := rfl
@[simp] theorem State.putCrc_ilen (s : State) (c : Half) :
    (s.putCrc c).ilen = s.ilen := rfl
@[simp] theorem State.putCrc_olen (s : State) (c : Half) :
    (s.putCrc c).olen = s.olen := rfl
@[simp] theorem State.putCrc_plen (s : State) (c : Half) :
    (s.putCrc c).plen = s.plen := rfl
@[simp] theorem State.putCrc_rval (s : State) (c : Half) :
    (s.putCrc c).rval = s.rval := rfl
@[simp] theorem State.putCrc_rdec (s : State) (c : Half) :
    (s.putCrc c).rdec = s.rdec := rfl
@[simp] theorem State.putCrc_rkind (s : State) (c : Half) :
    (s.putCrc c).rkind = s.rkind := rfl
@[simp] theorem State.putCrc_crcv (s : State) (c : Half) :
    (s.putCrc c).crcv = c := rfl
@[simp] theorem State.putCrc_ibuf (s : State) (c : Half) :
    (s.putCrc c).ibuf = s.ibuf := rfl
@[simp] theorem State.putCrc_obuf (s : State) (c : Half) :
    (s.putCrc c).obuf = s.obuf := rfl
@[simp] theorem State.putCrc_pbuf (s : State) (c : Half) :
    (s.putCrc c).pbuf = s.pbuf := rfl
@[simp] theorem State.putCrc_pending (s : State) (c : Half) :
    (s.putCrc c).pending = s.pending := rfl
@[simp] theorem State.putCrc_replies (s : State) (c : Half) :
    (s.putCrc c).replies = s.replies := rfl
@[simp] theorem State.putCrc_draws (s : State) (c : Half) :
    (s.putCrc c).draws = s.draws := rfl

/-! ### putResult -/

@[simp] theorem State.putResult_params (s : State) (v : Int) (d : Byte) :
    (s.putResult v d).params = s.params := rfl
@[simp] theorem State.putResult_cmd (s : State) (v : Int) (d : Byte) :
    (s.putResult v d).cmd = s.cmd := rfl
@[simp] theorem State.putResult_err (s : State) (v : Int) (d : Byte) :
    (s.putResult v d).err = s.err := rfl
@[simp] theorem State.putResult_lastOp (s : State) (v : Int) (d : Byte) :
    (s.putResult v d).lastOp = s.lastOp := rfl
@[simp] theorem State.putResult_expv (s : State) (v : Int) (d : Byte) :
    (s.putResult v d).expv = s.expv := rfl
@[simp] theorem State.putResult_rcvv (s : State) (v : Int) (d : Byte) :
    (s.putResult v d).rcvv = s.rcvv := rfl
@[simp] theorem State.putResult_slave (s : State) (v : Int) (d : Byte) :
    (s.putResult v d).slave = s.slave := rfl
@[simp] theorem State.putResult_fc (s : State) (v : Int) (d : Byte) :
    (s.putResult v d).fc = s.fc := rfl
@[simp] theorem State.putResult_regAddr (s : State) (v : Int) (d : Byte) :
    (s.putResult v d).regAddr = s.regAddr := rfl
@[simp] theorem State.putResult_regCount (s : State) (v : Int) (d : Byte) :
    (s.putResult v d).regCount = s.regCount := rfl
@[simp] theorem State.putResult_ilen (s : State) (v : Int) (d : Byte) :
    (s.putResult v d).ilen = s.ilen := rfl
@[simp] theorem State.putResult_olen (s : State) (v : Int) (d : Byte) :
    (s.putResult v d).olen = s.olen := rfl
@[simp] theorem State.putResult_plen (s : State) (v : Int) (d : Byte) :
    (s.putResult v d).plen = s.plen := rfl
@[simp] theorem State.putResult_rval (s : State) (v : Int) (d : Byte) :
    (s.putResult v d).rval = BitVec.ofInt 64 v := rfl
@[simp] theorem State.putResult_rdec (s : State) (v : Int) (d : Byte) :
    (s.putResult v d).rdec = d := rfl
@[simp] theorem State.putResult_rkind (s : State) (v : Int) (d : Byte) :
    (s.putResult v d).rkind = kindOf d := rfl
@[simp] theorem State.putResult_crcv (s : State) (v : Int) (d : Byte) :
    (s.putResult v d).crcv = s.crcv := rfl
@[simp] theorem State.putResult_ibuf (s : State) (v : Int) (d : Byte) :
    (s.putResult v d).ibuf = s.ibuf := rfl
@[simp] theorem State.putResult_obuf (s : State) (v : Int) (d : Byte) :
    (s.putResult v d).obuf = s.obuf := rfl
@[simp] theorem State.putResult_pbuf (s : State) (v : Int) (d : Byte) :
    (s.putResult v d).pbuf = s.pbuf := rfl
@[simp] theorem State.putResult_pending (s : State) (v : Int) (d : Byte) :
    (s.putResult v d).pending = s.pending := rfl
@[simp] theorem State.putResult_replies (s : State) (v : Int) (d : Byte) :
    (s.putResult v d).replies = s.replies := rfl
@[simp] theorem State.putResult_draws (s : State) (v : Int) (d : Byte) :
    (s.putResult v d).draws = s.draws := rfl

/-! ### record -/

@[simp] theorem State.record_params (s : State) (e : ErrCode) (x y : Half) :
    (s.record e x y).params = s.params := rfl
@[simp] theorem State.record_cmd (s : State) (e : ErrCode) (x y : Half) :
    (s.record e x y).cmd = s.cmd := rfl
@[simp] theorem State.record_err (s : State) (e : ErrCode) (x y : Half) :
    (s.record e x y).err = e.code := rfl
@[simp] theorem State.record_lastOp (s : State) (e : ErrCode) (x y : Half) :
    (s.record e x y).lastOp = s.lastOp := rfl
@[simp] theorem State.record_expv (s : State) (e : ErrCode) (x y : Half) :
    (s.record e x y).expv = x := rfl
@[simp] theorem State.record_rcvv (s : State) (e : ErrCode) (x y : Half) :
    (s.record e x y).rcvv = y := rfl
@[simp] theorem State.record_slave (s : State) (e : ErrCode) (x y : Half) :
    (s.record e x y).slave = s.slave := rfl
@[simp] theorem State.record_fc (s : State) (e : ErrCode) (x y : Half) :
    (s.record e x y).fc = s.fc := rfl
@[simp] theorem State.record_regAddr (s : State) (e : ErrCode) (x y : Half) :
    (s.record e x y).regAddr = s.regAddr := rfl
@[simp] theorem State.record_regCount (s : State) (e : ErrCode) (x y : Half) :
    (s.record e x y).regCount = s.regCount := rfl
@[simp] theorem State.record_ilen (s : State) (e : ErrCode) (x y : Half) :
    (s.record e x y).ilen = s.ilen := rfl
@[simp] theorem State.record_olen (s : State) (e : ErrCode) (x y : Half) :
    (s.record e x y).olen = s.olen := rfl
@[simp] theorem State.record_plen (s : State) (e : ErrCode) (x y : Half) :
    (s.record e x y).plen = s.plen := rfl
@[simp] theorem State.record_rval (s : State) (e : ErrCode) (x y : Half) :
    (s.record e x y).rval = s.rval := rfl
@[simp] theorem State.record_rdec (s : State) (e : ErrCode) (x y : Half) :
    (s.record e x y).rdec = s.rdec := rfl
@[simp] theorem State.record_rkind (s : State) (e : ErrCode) (x y : Half) :
    (s.record e x y).rkind = s.rkind := rfl
@[simp] theorem State.record_crcv (s : State) (e : ErrCode) (x y : Half) :
    (s.record e x y).crcv = s.crcv := rfl
@[simp] theorem State.record_ibuf (s : State) (e : ErrCode) (x y : Half) :
    (s.record e x y).ibuf = s.ibuf := rfl
@[simp] theorem State.record_obuf (s : State) (e : ErrCode) (x y : Half) :
    (s.record e x y).obuf = s.obuf := rfl
@[simp] theorem State.record_pbuf (s : State) (e : ErrCode) (x y : Half) :
    (s.record e x y).pbuf = s.pbuf := rfl
@[simp] theorem State.record_pending (s : State) (e : ErrCode) (x y : Half) :
    (s.record e x y).pending = s.pending := rfl
@[simp] theorem State.record_replies (s : State) (e : ErrCode) (x y : Half) :
    (s.record e x y).replies = s.replies := rfl
@[simp] theorem State.record_draws (s : State) (e : ErrCode) (x y : Half) :
    (s.record e x y).draws = s.draws := rfl

/-! ### issue -/

@[simp] theorem State.issue_params (s : State) (w : Word) :
    (s.issue w).params = s.params := rfl
@[simp] theorem State.issue_cmd (s : State) (w : Word) :
    (s.issue w).cmd = w := rfl
@[simp] theorem State.issue_err (s : State) (w : Word) :
    (s.issue w).err = s.err := rfl
@[simp] theorem State.issue_lastOp (s : State) (w : Word) :
    (s.issue w).lastOp = opField w := rfl
@[simp] theorem State.issue_expv (s : State) (w : Word) :
    (s.issue w).expv = s.expv := rfl
@[simp] theorem State.issue_rcvv (s : State) (w : Word) :
    (s.issue w).rcvv = s.rcvv := rfl
@[simp] theorem State.issue_slave (s : State) (w : Word) :
    (s.issue w).slave = s.slave := rfl
@[simp] theorem State.issue_fc (s : State) (w : Word) :
    (s.issue w).fc = s.fc := rfl
@[simp] theorem State.issue_regAddr (s : State) (w : Word) :
    (s.issue w).regAddr = s.regAddr := rfl
@[simp] theorem State.issue_regCount (s : State) (w : Word) :
    (s.issue w).regCount = s.regCount := rfl
@[simp] theorem State.issue_ilen (s : State) (w : Word) :
    (s.issue w).ilen = s.ilen := rfl
@[simp] theorem State.issue_olen (s : State) (w : Word) :
    (s.issue w).olen = s.olen := rfl
@[simp] theorem State.issue_plen (s : State) (w : Word) :
    (s.issue w).plen = s.plen := rfl
@[simp] theorem State.issue_rval (s : State) (w : Word) :
    (s.issue w).rval = s.rval := rfl
@[simp] theorem State.issue_rdec (s : State) (w : Word) :
    (s.issue w).rdec = s.rdec := rfl
@[simp] theorem State.issue_rkind (s : State) (w : Word) :
    (s.issue w).rkind = s.rkind := rfl
@[simp] theorem State.issue_crcv (s : State) (w : Word) :
    (s.issue w).crcv = s.crcv := rfl
@[simp] theorem State.issue_ibuf (s : State) (w : Word) :
    (s.issue w).ibuf = s.ibuf := rfl
@[simp] theorem State.issue_obuf (s : State) (w : Word) :
    (s.issue w).obuf = s.obuf := rfl
@[simp] theorem State.issue_pbuf (s : State) (w : Word) :
    (s.issue w).pbuf = s.pbuf := rfl
@[simp] theorem State.issue_pending (s : State) (w : Word) :
    (s.issue w).pending = s.pending := rfl
@[simp] theorem State.issue_replies (s : State) (w : Word) :
    (s.issue w).replies = s.replies := rfl
@[simp] theorem State.issue_draws (s : State) (w : Word) :
    (s.issue w).draws = s.draws := rfl

/-! ### reply -/

@[simp] theorem State.reply_params (s : State) (r : Reply) :
    (s.reply r).params = s.params := rfl
@[simp] theorem State.reply_cmd (s : State) (r : Reply) :
    (s.reply r).cmd = s.cmd := rfl
@[simp] theorem State.reply_err (s : State) (r : Reply) :
    (s.reply r).err = s.err := rfl
@[simp] theorem State.reply_lastOp (s : State) (r : Reply) :
    (s.reply r).lastOp = s.lastOp := rfl
@[simp] theorem State.reply_expv (s : State) (r : Reply) :
    (s.reply r).expv = s.expv := rfl
@[simp] theorem State.reply_rcvv (s : State) (r : Reply) :
    (s.reply r).rcvv = s.rcvv := rfl
@[simp] theorem State.reply_slave (s : State) (r : Reply) :
    (s.reply r).slave = s.slave := rfl
@[simp] theorem State.reply_fc (s : State) (r : Reply) :
    (s.reply r).fc = s.fc := rfl
@[simp] theorem State.reply_regAddr (s : State) (r : Reply) :
    (s.reply r).regAddr = s.regAddr := rfl
@[simp] theorem State.reply_regCount (s : State) (r : Reply) :
    (s.reply r).regCount = s.regCount := rfl
@[simp] theorem State.reply_ilen (s : State) (r : Reply) :
    (s.reply r).ilen = s.ilen := rfl
@[simp] theorem State.reply_olen (s : State) (r : Reply) :
    (s.reply r).olen = s.olen := rfl
@[simp] theorem State.reply_plen (s : State) (r : Reply) :
    (s.reply r).plen = s.plen := rfl
@[simp] theorem State.reply_rval (s : State) (r : Reply) :
    (s.reply r).rval = s.rval := rfl
@[simp] theorem State.reply_rdec (s : State) (r : Reply) :
    (s.reply r).rdec = s.rdec := rfl
@[simp] theorem State.reply_rkind (s : State) (r : Reply) :
    (s.reply r).rkind = s.rkind := rfl
@[simp] theorem State.reply_crcv (s : State) (r : Reply) :
    (s.reply r).crcv = s.crcv := rfl
@[simp] theorem State.reply_ibuf (s : State) (r : Reply) :
    (s.reply r).ibuf = s.ibuf := rfl
@[simp] theorem State.reply_obuf (s : State) (r : Reply) :
    (s.reply r).obuf = s.obuf := rfl
@[simp] theorem State.reply_pbuf (s : State) (r : Reply) :
    (s.reply r).pbuf = s.pbuf := rfl
@[simp] theorem State.reply_pending (s : State) (r : Reply) :
    (s.reply r).pending = s.pending := rfl
@[simp] theorem State.reply_replies (s : State) (r : Reply) :
    (s.reply r).replies = r :: s.replies := rfl
@[simp] theorem State.reply_draws (s : State) (r : Reply) :
    (s.reply r).draws = s.draws := rfl

/-! ### draw -/

@[simp] theorem State.draw_params (s : State) :
    s.draw.params = s.params := rfl
@[simp] theorem State.draw_cmd (s : State) :
    s.draw.cmd = s.cmd := rfl
@[simp] theorem State.draw_err (s : State) :
    s.draw.err = s.err := rfl
@[simp] theorem State.draw_lastOp (s : State) :
    s.draw.lastOp = s.lastOp := rfl
@[simp] theorem State.draw_expv (s : State) :
    s.draw.expv = s.expv := rfl
@[simp] theorem State.draw_rcvv (s : State) :
    s.draw.rcvv = s.rcvv := rfl
@[simp] theorem State.draw_slave (s : State) :
    s.draw.slave = s.slave := rfl
@[simp] theorem State.draw_fc (s : State) :
    s.draw.fc = s.fc := rfl
@[simp] theorem State.draw_regAddr (s : State) :
    s.draw.regAddr = s.regAddr := rfl
@[simp] theorem State.draw_regCount (s : State) :
    s.draw.regCount = s.regCount := rfl
@[simp] theorem State.draw_ilen (s : State) :
    s.draw.ilen = s.ilen := rfl
@[simp] theorem State.draw_olen (s : State) :
    s.draw.olen = s.olen := rfl
@[simp] theorem State.draw_plen (s : State) :
    s.draw.plen = s.plen := rfl
@[simp] theorem State.draw_rval (s : State) :
    s.draw.rval = s.rval := rfl
@[simp] theorem State.draw_rdec (s : State) :
    s.draw.rdec = s.rdec := rfl
@[simp] theorem State.draw_rkind (s : State) :
    s.draw.rkind = s.rkind := rfl
@[simp] theorem State.draw_crcv (s : State) :
    s.draw.crcv = s.crcv := rfl
@[simp] theorem State.draw_ibuf (s : State) :
    s.draw.ibuf = s.ibuf := rfl
@[simp] theorem State.draw_obuf (s : State) :
    s.draw.obuf = s.obuf := rfl
@[simp] theorem State.draw_pbuf (s : State) :
    s.draw.pbuf = s.pbuf := rfl
@[simp] theorem State.draw_pending (s : State) :
    s.draw.pending = s.pending := rfl
@[simp] theorem State.draw_replies (s : State) :
    s.draw.replies = s.replies := rfl
@[simp] theorem State.draw_draws (s : State) :
    s.draw.draws = s.draws + 1 := rfl

/-! ### platformReset -/

@[simp] theorem State.platformReset_params (s : State) :
    s.platformReset.params = s.params := rfl
@[simp] theorem State.platformReset_cmd (s : State) :
    s.platformReset.cmd = State.reset.cmd := rfl
@[simp] theorem State.platformReset_err (s : State) :
    s.platformReset.err = State.reset.err := rfl
@[simp] theorem State.platformReset_lastOp (s : State) :
    s.platformReset.lastOp = State.reset.lastOp := rfl
@[simp] theorem State.platformReset_expv (s : State) :
    s.platformReset.expv = State.reset.expv := rfl
@[simp] theorem State.platformReset_rcvv (s : State) :
    s.platformReset.rcvv = State.reset.rcvv := rfl
@[simp] theorem State.platformReset_slave (s : State) :
    s.platformReset.slave = State.reset.slave := rfl
@[simp] theorem State.platformReset_fc (s : State) :
    s.platformReset.fc = State.reset.fc := rfl
@[simp] theorem State.platformReset_regAddr (s : State) :
    s.platformReset.regAddr = State.reset.regAddr := rfl
@[simp] theorem State.platformReset_regCount (s : State) :
    s.platformReset.regCount = State.reset.regCount := rfl
@[simp] theorem State.platformReset_ilen (s : State) :
    s.platformReset.ilen = State.reset.ilen := rfl
@[simp] theorem State.platformReset_olen (s : State) :
    s.platformReset.olen = State.reset.olen := rfl
@[simp] theorem State.platformReset_plen (s : State) :
    s.platformReset.plen = State.reset.plen := rfl
@[simp] theorem State.platformReset_rval (s : State) :
    s.platformReset.rval = State.reset.rval := rfl
@[simp] theorem State.platformReset_rdec (s : State) :
    s.platformReset.rdec = State.reset.rdec := rfl
@[simp] theorem State.platformReset_rkind (s : State) :
    s.platformReset.rkind = State.reset.rkind := rfl
@[simp] theorem State.platformReset_crcv (s : State) :
    s.platformReset.crcv = State.reset.crcv := rfl
@[simp] theorem State.platformReset_ibuf (s : State) :
    s.platformReset.ibuf = State.reset.ibuf := rfl
@[simp] theorem State.platformReset_obuf (s : State) :
    s.platformReset.obuf = State.reset.obuf := rfl
@[simp] theorem State.platformReset_pbuf (s : State) :
    s.platformReset.pbuf = State.reset.pbuf := rfl
@[simp] theorem State.platformReset_pending (s : State) :
    s.platformReset.pending = s.pending := rfl
@[simp] theorem State.platformReset_replies (s : State) :
    s.platformReset.replies = s.replies := rfl
@[simp] theorem State.platformReset_draws (s : State) :
    s.platformReset.draws = s.draws := rfl

/-! ### failed -/

@[simp] theorem State.failed_params (s : State) (e : BitVec 4) (x y : Half) :
    (s.failed e x y).params = s.params := rfl
@[simp] theorem State.failed_cmd (s : State) (e : BitVec 4) (x y : Half) :
    (s.failed e x y).cmd = s.cmd := rfl
@[simp] theorem State.failed_err (s : State) (e : BitVec 4) (x y : Half) :
    (s.failed e x y).err = e := rfl
@[simp] theorem State.failed_lastOp (s : State) (e : BitVec 4) (x y : Half) :
    (s.failed e x y).lastOp = s.lastOp := rfl
@[simp] theorem State.failed_expv (s : State) (e : BitVec 4) (x y : Half) :
    (s.failed e x y).expv = x := rfl
@[simp] theorem State.failed_rcvv (s : State) (e : BitVec 4) (x y : Half) :
    (s.failed e x y).rcvv = y := rfl
@[simp] theorem State.failed_slave (s : State) (e : BitVec 4) (x y : Half) :
    (s.failed e x y).slave = s.slave := rfl
@[simp] theorem State.failed_fc (s : State) (e : BitVec 4) (x y : Half) :
    (s.failed e x y).fc = s.fc := rfl
@[simp] theorem State.failed_regAddr (s : State) (e : BitVec 4) (x y : Half) :
    (s.failed e x y).regAddr = s.regAddr := rfl
@[simp] theorem State.failed_regCount (s : State) (e : BitVec 4) (x y : Half) :
    (s.failed e x y).regCount = s.regCount := rfl
@[simp] theorem State.failed_ilen (s : State) (e : BitVec 4) (x y : Half) :
    (s.failed e x y).ilen = s.ilen := rfl
@[simp] theorem State.failed_olen (s : State) (e : BitVec 4) (x y : Half) :
    (s.failed e x y).olen = s.olen := rfl
@[simp] theorem State.failed_plen (s : State) (e : BitVec 4) (x y : Half) :
    (s.failed e x y).plen = s.plen := rfl
@[simp] theorem State.failed_rval (s : State) (e : BitVec 4) (x y : Half) :
    (s.failed e x y).rval = s.rval := rfl
@[simp] theorem State.failed_rdec (s : State) (e : BitVec 4) (x y : Half) :
    (s.failed e x y).rdec = s.rdec := rfl
@[simp] theorem State.failed_rkind (s : State) (e : BitVec 4) (x y : Half) :
    (s.failed e x y).rkind = s.rkind := rfl
@[simp] theorem State.failed_crcv (s : State) (e : BitVec 4) (x y : Half) :
    (s.failed e x y).crcv = s.crcv := rfl
@[simp] theorem State.failed_ibuf (s : State) (e : BitVec 4) (x y : Half) :
    (s.failed e x y).ibuf = s.ibuf := rfl
@[simp] theorem State.failed_obuf (s : State) (e : BitVec 4) (x y : Half) :
    (s.failed e x y).obuf = s.obuf := rfl
@[simp] theorem State.failed_pbuf (s : State) (e : BitVec 4) (x y : Half) :
    (s.failed e x y).pbuf = s.pbuf := rfl
@[simp] theorem State.failed_pending (s : State) (e : BitVec 4) (x y : Half) :
    (s.failed e x y).pending = s.pending := rfl
@[simp] theorem State.failed_replies (s : State) (e : BitVec 4) (x y : Half) :
    (s.failed e x y).replies = s.replies := rfl
@[simp] theorem State.failed_draws (s : State) (e : BitVec 4) (x y : Half) :
    (s.failed e x y).draws = s.draws := rfl

/-! ### the buffers by name -/

@[simp] theorem State.buf_ibuf (s : State) : s.buf .ibuf = s.ibuf := rfl
@[simp] theorem State.buf_obuf (s : State) : s.buf .obuf = s.obuf := rfl
@[simp] theorem State.buf_pbuf (s : State) : s.buf .pbuf = s.pbuf := rfl

end Sys2Proof.Machine
end

