-- ==== Sys2Proof/Laws/Commands.lean ====
section
/-! SUPPORT. What the shared operations of the commands can do, said once: the read of a buffer, the
front halves of the parsing and decoding commands, the back half of the composite ones. -/

namespace Sys2Proof.Machine

/-! ### exec's arms -/

theorem exec_crc (s : State) : exec .crc s = execCrc s := rfl
theorem exec_crcApp (s : State) : exec .crcApp s = execCrcApp s := rfl
theorem exec_crcChk (s : State) : exec .crcChk s = execCrcChk s := rfl
theorem exec_build (s : State) : exec .build s = execBuild s := rfl
theorem exec_parse (s : State) : exec .parse s = execParse s := rfl
theorem exec_swap (s : State) : exec .swap s = execSwap s := rfl
theorem exec_dec16 (d : Byte) (sg : Signedness) (bo : ByteOrder) (s : State) :
    exec (.dec16 d sg bo) s = execDec16 d sg bo s := rfl
theorem exec_dec32 (d : Byte) (sg : Signedness) (bo : ByteOrder) (s : State) :
    exec (.dec32 d sg bo) s = execDec32 d sg bo s := rfl
theorem exec_rdec16 (d : Byte) (sg : Signedness) (bo : ByteOrder) (s : State) :
    exec (.rdec16 d sg bo) s = execRdec16 d sg bo s := rfl
theorem exec_rdec32 (d : Byte) (sg : Signedness) (bo : ByteOrder) (s : State) :
    exec (.rdec32 d sg bo) s = execRdec32 d sg bo s := rfl

/-! ### ends of a command -/

theorem raise_eq (s : State) (e : ErrCode) (x y : Half) :
    raise s e x y = .next (s.failed e.code x y) := rfl

theorem succeed_eq (s : State) :
    succeed s = .next { s with err := 0, expv := 0, rcvv := 0 } := rfl

theorem raiseIllegal_eq (s : State) (op : Byte) :
    raiseIllegal s op = .next (s.failed 6 0 (op.setWidth 16)) := rfl

/-! ### MemRead -/

theorem memRead_written {s : State} {b : Buf} {n : Nat} (h : Written (s.buf b) n) (c : Instr)
    (k : List Byte → Result) : memRead c s b n k = k (prefixOf (s.buf b) n) := by
  simp only [memRead, Memory.readBytes_written h]

/-- The read of a buffer goes on with its bytes, all of them written, or faults at an unwritten one
(20_memory.md R52, R55). -/
theorem memRead_cases (c : Instr) (s : State) (b : Buf) (n : Nat) (k : List Byte → Result) :
    (Written (s.buf b) n ∧ memRead c s b n k = k (prefixOf (s.buf b) n)) ∨
      ∃ i, i < n ∧ Memory.read (s.buf b) i = none ∧
        memRead c s b n k = .fault (.unwritten c b i) := by
  rcases Memory.readBytes_cases (s.buf b) n with ⟨hw, _⟩ | ⟨i, hi, hn, hr⟩
  · exact .inl ⟨hw, memRead_written hw c k⟩
  · exact .inr ⟨i, hi, hn, by simp only [memRead, hr]⟩

/-! ### the parser -/

/-- What the parser says of a frame held in IBUF (42_frame.md R142). -/
theorem parseResponse_prefixOf (m : Memory) {n : Nat} (ea : Byte) (h : 4 ≤ n) :
    parseResponse (prefixOf m n) ea =
      if crc16 (prefixOf m (n - 2)) ≠ fromWire (byteOf m (n - 2)) (byteOf m (n - 1)) then
        .error
          { error := .checksumMismatch, exp := crc16 (prefixOf m (n - 2)),
            rcv := fromWire (byteOf m (n - 2)) (byteOf m (n - 1)) }
      else if byteOf m 0 ≠ ea then
        .error
          { error := .addressMismatch, exp := ea.setWidth 16, rcv := (byteOf m 0).setWidth 16 }
      else
        .ok
          { payload := slice (prefixOf m n) 2 (n - 2), crc := crc16 (prefixOf m (n - 2)) } := by
  simp only [parseResponse, length_prefixOf, trailingCrc_prefixOf m (show 2 ≤ n by omega)]
  rw [if_neg (by omega), byteAt_prefixOf m (by omega)]

theorem receivedCrc_eq (s : State) :
    receivedCrc s =
      fromWire (byteOf s.ibuf (s.ilen.toNat - 2)) (byteOf s.ibuf (s.ilen.toNat - 1)) :=
  (fromWire_eq_ofNat _ _).symm

/-- The payload and CRC a good response yields. -/
def responseOf (s : State) : Response :=
  { payload := slice (prefixOf s.ibuf s.ilen.toNat) 2 (s.ilen.toNat - 2), crc := computedCrc s }

/-- Everything the front half of PARSE, RDEC16 and RDEC32 can do: four errors in order, a fault, or the
rest of the command on a good response (42_frame.md R143, 60_exceptions.md R191). -/
theorem readResponse_cases (i : Instr) (s : State) (k : Response → Result) :
    (s.params.bufCap < s.ilen.toNat ∧
        readResponse i s k = .next (s.failed 7 (half s.params.bufCap) s.ilen)) ∨
      (s.ilen.toNat ≤ s.params.bufCap ∧ s.ilen.toNat < 4 ∧
        readResponse i s k = .next (s.failed 1 4 s.ilen)) ∨
      (4 ≤ s.ilen.toNat ∧ s.ilen.toNat ≤ s.params.bufCap ∧
        ∃ j, j < s.ilen.toNat ∧ Memory.read s.ibuf j = none ∧
          readResponse i s k = .fault (.unwritten i .ibuf j)) ∨
      (4 ≤ s.ilen.toNat ∧ s.ilen.toNat ≤ s.params.bufCap ∧ Written s.ibuf s.ilen.toNat ∧
        computedCrc s ≠ receivedCrc s ∧
        readResponse i s k = .next (s.failed 2 (computedCrc s) (receivedCrc s))) ∨
      (4 ≤ s.ilen.toNat ∧ s.ilen.toNat ≤ s.params.bufCap ∧ Written s.ibuf s.ilen.toNat ∧
        computedCrc s = receivedCrc s ∧ byteOf s.ibuf 0 ≠ s.slave ∧
        readResponse i s k =
          .next (s.failed 3 (s.slave.setWidth 16) ((byteOf s.ibuf 0).setWidth 16))) ∨
      (GoodResponse s ∧ readResponse i s k = k (responseOf s)) := by
  simp only [readResponse]
  by_cases h1 : s.params.bufCap < s.ilen.toNat
  · left; exact ⟨h1, by rw [if_pos h1]; rfl⟩
  right
  rw [if_neg h1]
  by_cases h2 : s.ilen.toNat < 4
  · left; exact ⟨by omega, h2, by rw [if_pos h2]; rfl⟩
  right
  rw [if_neg h2]
  rcases memRead_cases i s .ibuf s.ilen.toNat
      (fun raw => afterParse s k (parseResponse raw s.slave)) with ⟨hw, he⟩ | ⟨j, hj, hn, he⟩
  · right
    rw [he]
    simp only [State.buf_ibuf] at hw ⊢
    rw [parseResponse_prefixOf s.ibuf s.slave (by omega), ← receivedCrc_eq]
    change Written s.ibuf s.ilen.toNat at hw
    rw [show crc16 (prefixOf s.ibuf (s.ilen.toNat - 2)) = computedCrc s from rfl]
    by_cases h3 : computedCrc s = receivedCrc s
    · right
      by_cases h4 : byteOf s.ibuf 0 = s.slave
      · right
        exact ⟨⟨by omega, by omega, hw, h3, h4⟩, by
          rw [if_neg (not_not.2 h3), if_neg (not_not.2 h4)]; rfl⟩
      · left
        exact ⟨by omega, by omega, hw, h3, h4, by rw [if_neg (not_not.2 h3), if_pos h4]; rfl⟩
    · left
      exact ⟨by omega, by omega, hw, h3, by rw [if_pos h3]; rfl⟩
  · left
    exact ⟨by omega, by omega, j, hj, hn, he⟩

/-- Everything the front half of DEC16 and DEC32 can do (41_codec.md R126, R127). -/
theorem readPayload_cases (i : Instr) (n : Nat) (s : State) (k : List Byte → Result) :
    (s.params.bufCap < s.plen.toNat ∧
        readPayload i n s k = .next (s.failed 7 (half s.params.bufCap) s.plen)) ∨
      (s.plen.toNat ≤ s.params.bufCap ∧ s.plen.toNat ≠ n ∧
        readPayload i n s k = .next (s.failed 4 (half n) s.plen)) ∨
      (s.plen.toNat ≤ s.params.bufCap ∧ s.plen.toNat = n ∧
        ∃ j, j < n ∧ Memory.read s.pbuf j = none ∧
          readPayload i n s k = .fault (.unwritten i .pbuf j)) ∨
      (s.plen.toNat ≤ s.params.bufCap ∧ s.plen.toNat = n ∧ Written s.pbuf n ∧
        readPayload i n s k = k (prefixOf s.pbuf n)) := by
  simp only [readPayload]
  by_cases h1 : s.params.bufCap < s.plen.toNat
  · left; exact ⟨h1, by rw [if_pos h1]; rfl⟩
  right
  rw [if_neg h1]
  by_cases h2 : s.plen.toNat ≠ n
  · left; exact ⟨by omega, h2, by rw [if_pos h2]; rfl⟩
  right
  rw [if_neg h2]
  rcases memRead_cases i s .pbuf n k with ⟨hw, he⟩ | ⟨j, hj, hn, he⟩
  · exact .inr ⟨by omega, by omega, hw, he⟩
  · exact .inl ⟨by omega, by omega, j, hj, hn, he⟩

/-- Everything the back half of a composite command can do (43_facade.md R160, R161). -/
theorem decodeResponse_cases (n : Nat) (value : List Byte → Int) (d : Byte) (s : State)
    (p : Response) :
    (p.payload.length ≠ n + s.params.payloadSkip ∧
        decodeResponse n value d s p =
          .next (s.failed 4 (half (n + s.params.payloadSkip)) (half p.payload.length))) ∨
      (p.payload.length = n + s.params.payloadSkip ∧
        decodeResponse n value d s p =
          succeed
            (((s.putPayload p.payload).putCrc p.crc).putResult
              (value
                (slice p.payload s.params.payloadSkip (s.params.payloadSkip + n))) d)) := by
  simp only [decodeResponse]
  by_cases h : p.payload.length ≠ n + s.params.payloadSkip
  · exact .inl ⟨h, by rw [if_pos h]; rfl⟩
  · exact .inr ⟨by omega, by rw [if_neg h]⟩

end Sys2Proof.Machine
end

