-- ==== Sys2Proof/Laws/Codec.lean ====
section
/-! SUPPORT. The decode forms as numbers, and the pair swap byte by byte (41_codec.md R120 to R124). -/

namespace Sys2Proof.Machine

theorem pair_toNat (a b : Byte) : (pair a b).toNat = 256 * a.toNat + b.toNat := by
  have : pair a b = fromWire b a := by simp [pair, fromWire, BitVec.or_comm]
  rw [this, fromWire_toNat, wireNumber]
  omega

theorem shiftLeft_toNat (b : Byte) {k : Nat} (hk : k ≤ 24) :
    (b.setWidth 32 <<< k).toNat = b.toNat <<< k := by
  have hb := b.isLt
  have h2 : 2 ^ k ≤ 2 ^ 24 := Nat.pow_le_pow_right (by omega) hk
  rw [BitVec.toNat_shiftLeft, BitVec.toNat_setWidth,
    Nat.mod_eq_of_lt (show b.toNat < 2 ^ 32 by omega), Nat.mod_eq_of_lt]
  rw [Nat.shiftLeft_eq]
  calc b.toNat * 2 ^ k ≤ 255 * 2 ^ 24 := Nat.mul_le_mul (by omega) h2
    _ < 2 ^ 32 := by norm_num

theorem quad_toNat (a b c d : Byte) : (quad a b c d).toNat = fourBytes a b c d := by
  have ha := a.isLt
  have hb := b.isLt
  have hc := c.isLt
  have hd := d.isLt
  have h0 : (quad a b c d).toNat =
      a.toNat <<< 24 ||| b.toNat <<< 16 ||| c.toNat <<< 8 ||| d.toNat := by
    simp only [quad, BitVec.toNat_or, shiftLeft_toNat _ (show 24 ≤ 24 by omega),
      shiftLeft_toNat _ (show 16 ≤ 24 by omega), shiftLeft_toNat _ (show 8 ≤ 24 by omega),
      BitVec.toNat_setWidth]
    rw [Nat.mod_eq_of_lt (show d.toNat < 2 ^ 32 by omega)]
  have h1 := or_shift_eq_add d.toNat c.toNat 8 hd
  have h2 := or_shift_eq_add (d.toNat + c.toNat * 2 ^ 8) b.toNat 16 (by omega)
  have h3 := or_shift_eq_add (d.toNat + c.toNat * 2 ^ 8 + b.toNat * 2 ^ 16) a.toNat 24 (by omega)
  rw [h0, Nat.or_comm, Nat.or_comm (_ ||| _) (c.toNat <<< 8), ← Nat.or_assoc, h1,
    Nat.or_comm (a.toNat <<< 24), ← Nat.or_assoc, h2, h3, fourBytes]
  omega

/-- Signedness as arithmetic (R124). -/
theorem signedValue_eq {n : Nat} (p : BitVec n) (sg : Signedness) :
    signedValue p sg = denotes n sg p.toNat := by
  cases sg with
  | unsigned => rfl
  | signed =>
    simp only [signedValue, denotes, BitVec.toInt_eq_msb_cond, BitVec.msb_eq_decide]
    by_cases h : 2 ^ (n - 1) ≤ p.toNat <;> simp [h]

/-- A 16-bit decode of two bytes as a number (R122, R124). -/
theorem signedValue_unpack16 {l : List Byte} (sg : Signedness) {bo : ByteOrder}
    (h : bo.swaps = false) :
    signedValue (unpack16 l (endianOf bo)) sg =
      denotes 16 sg (number16 bo (byteAt l 0) (byteAt l 1)) := by
  rw [signedValue_eq]
  cases bo <;> simp_all [ByteOrder.swaps, endianOf, unpack16, pair_toNat, number16]

/-- A 32-bit decode of four bytes as a number: swap first, unpack second (R123, R124). -/
theorem signedValue_unpack32 (a b c d : Byte) (sg : Signedness) (bo : ByteOrder) :
    signedValue (unpack32 [a, b, c, d] bo) sg = denotes 32 sg (number32 bo a b c d) := by
  rw [signedValue_eq]
  cases bo <;>
    simp [unpack32, ByteOrder.swaps, endianOf, join32, quad_toNat, number32, swapPairs, byteAt]

/-- The pair swap byte by byte (R120). -/
theorem getElem?_swapPairs (s : List Byte) (he : s.length % 2 = 0) {k : Nat}
    (h : 2 * k + 1 < s.length) :
    (swapPairs s)[2 * k]? = s[2 * k + 1]? ∧ (swapPairs s)[2 * k + 1]? = s[2 * k]? := by
  induction s using swapPairs.induct generalizing k with
  | case1 a b rest ih =>
    simp only [swapPairs]
    cases k with
    | zero => simp
    | succ k =>
      have := ih (by simp at he; omega) (k := k) (by simp at h; omega)
      simpa [Nat.mul_add, Nat.add_assoc] using this
  | case2 rest hr =>
    exfalso
    match rest, hr with
    | [], _ => simp at h
    | [a], _ => simp at he
    | a :: b :: r, hr => exact hr a b r rfl

/-- SWAP's test of an odd length (R121). -/
theorem getLsbD_zero_iff (n : Half) : n.getLsbD 0 = true ↔ n.toNat % 2 = 1 := by
  rw [BitVec.getLsbD, Nat.testBit_zero]
  simp

/-- A byte of a slice (00_scope.md R10). -/
theorem byteAt_slice (l : List Byte) (k n : Nat) {j : Nat} (h : j < n) :
    byteAt (slice l k (k + n)) j = byteAt l (k + j) := by
  simp only [byteAt, slice, List.getD, List.getElem?_drop, List.getElem?_take,
    show k + j < k + n by omega, if_true]

@[simp] theorem length_responseOf (s : State) (h : 4 ≤ s.ilen.toNat) :
    (responseOf s).payload.length = s.ilen.toNat - 4 := (payload_prefixOf _ h).1

/-- A byte of a good response's payload (42_frame.md R142). -/
theorem byteAt_responseOf {s : State} (h : 4 ≤ s.ilen.toNat) {j : Nat}
    (hj : j < s.ilen.toNat - 4) : byteAt (responseOf s).payload j = byteOf s.ibuf (j + 2) := by
  have := (payload_prefixOf s.ibuf h).2 j hj
  simp [byteAt, responseOf, this]

/-- The payload of a good response, written to PBUF (42_frame.md R143). -/
theorem payloadExtracted {s t : State} (h : 4 ≤ s.ilen.toNat)
    (ht : t.pbuf = Memory.writeBytes s.pbuf 0 (responseOf s).payload) : PayloadExtracted s t := by
  have hl := length_responseOf s h
  refine ⟨fun j hj => ?_, fun a ha => ?_⟩
  · rw [ht, Memory.read_writeBytes_lt _ _ (by omega)]
    exact (payload_prefixOf s.ibuf h).2 j hj
  · rw [ht, Memory.read_writeBytes_ge _ _ (by omega)]

/-- The front half of a parsing command on a good response. -/
theorem readResponse_good {s : State} (hg : GoodResponse s) (i : Instr) (k : Response → Result) :
    readResponse i s k = k (responseOf s) := by
  obtain ⟨h4, hc, hw, he, ha⟩ := hg
  rcases readResponse_cases i s k with h | h | ⟨_, _, j, hj, hn, _⟩ | h | h | h
  · omega
  · omega
  · have := hw j hj
    rw [hn] at this
    cases this
  · exact absurd he h.2.2.2.1
  · exact absurd ha h.2.2.2.2.1
  · exact h.2

end Sys2Proof.Machine
end

