-- ==== Sys2Proof/Laws/PerInstr.lean ====
section
/-! SUPPORT. The family of statements about every command as syntax: its word carries its OP and keeps RSV
clear (30_encoding.md R71, R72, R76). -/

namespace Sys2Proof.Laws.OpcodeField

/-- The command's word has the command's OP in [7:0] and 0 in RSV. -/
def Statement (i : Instr) : Prop := opField (encode i) = i.opcode ∧ rsvField (encode i) = 0

/-- The fields of a word put together can be read back. -/
theorem encodeFields_op (op d : Byte) (sg : Signedness) (bo : ByteOrder) :
    opField (encodeFields op d sg bo) = op ∧ rsvField (encodeFields op d sg bo) = 0 := by
  constructor
  · apply BitVec.eq_of_getLsbD_eq
    intro j hj
    simp [opField, encodeFields, hj, show j < 32 by omega, show j < 16 by omega,
      show j < 17 by omega]
  · apply BitVec.eq_of_getLsbD_eq
    intro j hj
    have h1 : d.getLsbD (19 + j - 8) = false := BitVec.getLsbD_of_ge _ _ (by omega)
    have h2 : op.getLsbD (19 + j) = false := BitVec.getLsbD_of_ge _ _ (by omega)
    have h3 : sg.bits.getLsbD (19 + j - 16) = false := BitVec.getLsbD_of_ge _ _ (by omega)
    have h4 : bo.bits.getLsbD (19 + j - 17) = false := BitVec.getLsbD_of_ge _ _ (by omega)
    simp [rsvField, encodeFields, h1, h2, h3, h4]

theorem crc : Statement .crc := encodeFields_op _ _ _ _
theorem crcApp : Statement .crcApp := encodeFields_op _ _ _ _
theorem crcChk : Statement .crcChk := encodeFields_op _ _ _ _
theorem build : Statement .build := encodeFields_op _ _ _ _
theorem parse : Statement .parse := encodeFields_op _ _ _ _
theorem swap : Statement .swap := encodeFields_op _ _ _ _
theorem dec16 (d : Byte) (sg : Signedness) (bo : ByteOrder) : Statement (.dec16 d sg bo) :=
  encodeFields_op _ _ _ _
theorem dec32 (d : Byte) (sg : Signedness) (bo : ByteOrder) : Statement (.dec32 d sg bo) :=
  encodeFields_op _ _ _ _
theorem rdec16 (d : Byte) (sg : Signedness) (bo : ByteOrder) : Statement (.rdec16 d sg bo) :=
  encodeFields_op _ _ _ _
theorem rdec32 (d : Byte) (sg : Signedness) (bo : ByteOrder) : Statement (.rdec32 d sg bo) :=
  encodeFields_op _ _ _ _

end Sys2Proof.Laws.OpcodeField
end

