-- ==== Sys2Proof/Laws/Decode.lean ====
section
/-! SUPPORT. The fields of a command word: what is put together can be read back, and a word with RSV clear
is its fields put together (30_encoding.md R71 to R77). -/

namespace Sys2Proof

@[simp] theorem Signedness.ofBits_bits (sg : Signedness) : Signedness.ofBits sg.bits = sg := by
  cases sg <;> rfl

@[simp] theorem ByteOrder.ofBits_bits (bo : ByteOrder) : ByteOrder.ofBits bo.bits = bo := by
  cases bo <;> rfl

theorem Signedness.bits_ofBits : ∀ b : BitVec 1, (Signedness.ofBits b).bits = b := by decide

theorem ByteOrder.bits_ofBits : ∀ b : BitVec 2, (ByteOrder.ofBits b).bits = b := by decide

theorem opField_encode (i : Instr) : opField (encode i) = i.opcode := by
  cases i <;> exact (Laws.OpcodeField.encodeFields_op _ _ _ _).1

theorem rsvField_encode (i : Instr) : rsvField (encode i) = 0 := by
  cases i <;> exact (Laws.OpcodeField.encodeFields_op _ _ _ _).2

theorem decField_encodeFields (op d : Byte) (sg : Signedness) (bo : ByteOrder) :
    decField (encodeFields op d sg bo) = d := by
  apply BitVec.eq_of_getLsbD_eq
  intro j hj
  simp [decField, encodeFields, hj, show 8 + j < 16 by omega, show 8 + j < 17 by omega,
    show 8 + j < 32 by omega]

theorem sgnField_encodeFields (op d : Byte) (sg : Signedness) (bo : ByteOrder) :
    sgnField (encodeFields op d sg bo) = sg.bits := by
  apply BitVec.eq_of_getLsbD_eq
  intro j hj
  have h1 : d.getLsbD (16 + j - 8) = false := BitVec.getLsbD_of_ge _ _ (by omega)
  have h2 : op.getLsbD (16 + j) = false := BitVec.getLsbD_of_ge _ _ (by omega)
  simp [sgnField, encodeFields, hj, h1, h2, show 16 + j < 17 by omega, show 16 + j < 32 by omega]

theorem boField_encodeFields (op d : Byte) (sg : Signedness) (bo : ByteOrder) :
    boField (encodeFields op d sg bo) = bo.bits := by
  apply BitVec.eq_of_getLsbD_eq
  intro j hj
  have h1 : d.getLsbD (17 + j - 8) = false := BitVec.getLsbD_of_ge _ _ (by omega)
  have h2 : op.getLsbD (17 + j) = false := BitVec.getLsbD_of_ge _ _ (by omega)
  have h3 : sg.bits.getLsbD (17 + j - 16) = false := BitVec.getLsbD_of_ge _ _ (by omega)
  simp [boField, encodeFields, hj, h1, h2, h3, show 17 + j < 32 by omega]

/-- A word with RSV clear is its fields put together (R71). -/
theorem eq_encodeFields {w : Word} (h : rsvField w = 0) :
    w =
      encodeFields (opField w) (decField w) (.ofBits (sgnField w)) (.ofBits (boField w)) := by
  have hr : ∀ k, k < 13 → w.getLsbD (19 + k) = false := by
    intro k hk
    have := congrArg (fun x : BitVec 13 => x.getLsbD k) h
    simpa [rsvField, hk] using this
  apply BitVec.eq_of_getLsbD_eq
  intro j hj
  simp only [encodeFields, Signedness.bits_ofBits, ByteOrder.bits_ofBits]
  by_cases h0 : j < 8
  · simp [opField, decField, sgnField, boField, hj, h0, show j < 16 by omega,
      show j < 17 by omega]
  by_cases h1 : j < 16
  · simp [opField, decField, sgnField, boField, hj, h0, h1, show j < 17 by omega,
      show j - 8 < 8 by omega, show 8 + (j - 8) = j by omega]
  by_cases h2 : j < 17
  · obtain rfl : j = 16 := by omega
    simp [opField, decField, sgnField, boField]
  by_cases h3 : j < 19
  · obtain rfl | rfl : j = 17 ∨ j = 18 := by omega
    · simp [opField, decField, sgnField, boField]
    · simp [opField, decField, sgnField, boField]
  · have := hr (j - 19) (by omega)
    rw [show 19 + (j - 19) = j by omega] at this
    simp [opField, decField, sgnField, boField, this, h1, show ¬ j - 8 < 8 by omega, h0, h2,
      show ¬ j - 16 < 1 by omega, show ¬ j - 17 < 2 by omega]

/-- Bits [18:8] clear: no operand field is set (R77). -/
theorem fields_of_operandBits {w : Word} (h : operandBits w = 0) :
    decField w = 0 ∧ sgnField w = 0 ∧ boField w = 0 := by
  have hr : ∀ k, k < 11 → w.getLsbD (8 + k) = false := by
    intro k hk
    have := congrArg (fun x : BitVec 11 => x.getLsbD k) h
    simpa [operandBits, hk] using this
  refine ⟨?_, ?_, ?_⟩ <;> apply BitVec.eq_of_getLsbD_eq <;> intro j hj
  · simpa [decField, hj] using hr j (by omega)
  · have := hr (8 + j) (by omega)
    rw [show 8 + (8 + j) = 16 + j by omega] at this
    simpa [sgnField, hj] using this
  · have := hr (9 + j) (by omega)
    rw [show 8 + (9 + j) = 17 + j by omega] at this
    simpa [boField, hj] using this

/-- The fields of a word as numbers (R71). -/
theorem opField_toNat (w : Word) : (opField w).toNat = w.toNat % 256 := by
  simp [opField, BitVec.extractLsb'_toNat]

theorem decField_toNat (w : Word) : (decField w).toNat = w.toNat / 256 % 256 := by
  simp [decField, BitVec.extractLsb'_toNat, Nat.shiftRight_eq_div_pow]

theorem sgnField_toNat (w : Word) : (sgnField w).toNat = w.toNat / 65536 % 2 := by
  simp [sgnField, BitVec.extractLsb'_toNat, Nat.shiftRight_eq_div_pow]

theorem boField_toNat (w : Word) : (boField w).toNat = w.toNat / 131072 % 4 := by
  simp [boField, BitVec.extractLsb'_toNat, Nat.shiftRight_eq_div_pow]

theorem operandBits_toNat (w : Word) : (operandBits w).toNat = w.toNat / 256 % 2048 := by
  simp [operandBits, BitVec.extractLsb'_toNat, Nat.shiftRight_eq_div_pow]

theorem rsvField_toNat (w : Word) : (rsvField w).toNat = w.toNat / 524288 := by
  have := w.isLt
  simp only [rsvField, BitVec.extractLsb'_toNat, Nat.shiftRight_eq_div_pow]
  omega

end Sys2Proof
end

