-- ==== Sys2Proof/Laws/Exec.lean ====
section
/-! SUPPORT. What a command can do, said once for all ten: the inversion of `exec`. -/

namespace Sys2Proof.Machine

/-- How a command can end: an error that changes only STATUS and DIAG, a fault at an unwritten byte it
reads, or success within its frame (60_exceptions.md R180). -/
inductive Ends (i : Instr) (s : State) : Result → Prop
  | fail (e : ErrCode) (x y : Half) (he : e ≠ .ok ∧ e ≠ .noResponse)
      (hi : e = .illegalCommand → i.wf = false) : Ends i s (.next (s.failed e.code x y))
  | fault (b : Buf) (n j : Nat) (hr : s.params.Legal → reads i s = some (b, n)) (hj : j < n)
      (hn : Memory.read (s.buf b) j = none) : Ends i s (.fault (.unwritten i b j))
  | ok (t : State) (ht : t.err = 0 ∧ t.expv = 0 ∧ t.rcvv = 0) (hf : Frame i s t) :
      Ends i s (.next t)

theorem Ends.raise {i : Instr} {s : State} (e : ErrCode) (x y : Half)
    (he : e ≠ .ok ∧ e ≠ .noResponse ∧ e ≠ .illegalCommand) :
    Ends i s (Machine.raise s e x y) :=
  .fail e x y ⟨he.1, he.2.1⟩ fun h => absurd h he.2.2

theorem Ends.illegal {i : Instr} {s : State} (hi : i.wf = false) (op : Byte) :
    Ends i s (raiseIllegal s op) :=
  .fail .illegalCommand _ _ (by decide) fun _ => hi

theorem Ends.succeed {i : Instr} {s t : State} (hf : Frame i s (t.record .ok 0 0)) :
    Ends i s (Machine.succeed t) :=
  .ok _ ⟨rfl, rfl, rfl⟩ hf

theorem Ends.memRead {i : Instr} {s : State} {b : Buf} {n : Nat} {k : List Byte → Result}
    (hr : s.params.Legal → reads i s = some (b, n))
    (hk : Written (s.buf b) n → Ends i s (k (prefixOf (s.buf b) n))) :
    Ends i s (Machine.memRead i s b n k) := by
  rcases memRead_cases i s b n k with ⟨hw, h⟩ | ⟨j, hj, hn, h⟩
  · rw [h]; exact hk hw
  · rw [h]; exact .fault b n j hr hj hn

theorem Ends.readResponse {i : Instr} {s : State} {k : Response → Result}
    (hr : 4 ≤ s.ilen.toNat → s.ilen.toNat ≤ s.params.bufCap →
      reads i s = some (.ibuf, s.ilen.toNat))
    (hk : GoodResponse s → Ends i s (k (responseOf s))) :
    Ends i s (Machine.readResponse i s k) := by
  rcases readResponse_cases i s k with ⟨_, h⟩ | ⟨_, _, h⟩ | ⟨h4, hc, j, hj, hn, h⟩ |
    ⟨_, _, _, _, h⟩ | ⟨_, _, _, _, _, h⟩ | ⟨hg, h⟩ <;> rw [h]
  · exact .raise .capacityError _ _ (by decide)
  · exact .raise .tooShort _ _ (by decide)
  · exact .fault .ibuf _ j (fun _ => hr h4 hc) hj hn
  · exact .raise .checksumMismatch _ _ (by decide)
  · exact .raise .addressMismatch _ _ (by decide)
  · exact hk hg

theorem Ends.readPayload {i : Instr} {s : State} {n : Nat} {k : List Byte → Result}
    (hr : s.plen.toNat = n → reads i s = some (.pbuf, n))
    (hk : Ends i s (k (prefixOf s.pbuf n))) :
    Ends i s (Machine.readPayload i n s k) := by
  rcases readPayload_cases i n s k with ⟨_, h⟩ | ⟨_, _, h⟩ | ⟨_, hp, j, hj, hn, h⟩ |
    ⟨_, _, _, h⟩ <;> rw [h]
  · exact .raise .capacityError _ _ (by decide)
  · exact .raise .codecError _ _ (by decide)
  · exact .fault .pbuf n j (fun _ => hr hp) hj hn
  · exact hk

/-- A write from index 0 leaves the bytes beyond it alone. -/
theorem frame_writeBytes {m : Memory} {bs : List Byte} {n : Nat} (h : bs.length = n) (a : Nat)
    (ha : n ≤ a) : Memory.read (Memory.writeBytes m 0 bs) a = Memory.read m a :=
  Memory.read_writeBytes_ge bs m (by omega)

/-- CRC's success within its frame (40_crc.md R105). -/
theorem frame_crc {s : State} {bs : List Byte} (c : Half) (h : bs.length = 2) :
    Frame .crc s (((s.putOutput bs).putCrc c).record .ok 0 0) := by
  refine ⟨?_, frame_writeBytes h⟩
  cases s
  simp only [State.putOutput, State.putCrc, State.record, State.memWrite, State.setBuf,
    ErrCode.code]

/-- CRCAPP's success within its frame (40_crc.md R106). -/
theorem frame_crcApp {s : State} {bs : List Byte} (c : Half) (h : bs.length = s.ilen.toNat + 2) :
    Frame .crcApp s (((s.putOutput bs).putCrc c).record .ok 0 0) := by
  refine ⟨?_, frame_writeBytes h⟩
  cases s
  simp only [State.putOutput, State.putCrc, State.record, State.memWrite, State.setBuf,
    ErrCode.code]

/-- BUILD's success within its frame (42_frame.md R141). -/
theorem frame_build {s : State} {bs : List Byte} (c : Half) (h : bs.length = 8) :
    Frame .build s (((s.putOutput bs).putCrc c).record .ok 0 0) := by
  refine ⟨?_, frame_writeBytes h⟩
  cases s
  simp only [State.putOutput, State.putCrc, State.record, State.memWrite, State.setBuf,
    ErrCode.code]

/-- SWAP's success within its frame (41_codec.md R121). -/
theorem frame_swap {s : State} {bs : List Byte} (h : bs.length = s.ilen.toNat) :
    Frame .swap s ((s.putOutput bs).record .ok 0 0) := by
  refine ⟨?_, frame_writeBytes h⟩
  cases s
  simp only [State.putOutput, State.record, State.memWrite, State.setBuf,
    ErrCode.code]

/-- BUILD as one success (42_frame.md R141). -/
theorem execBuild_eq (s : State) (body : List Byte)
    (h : requestBody s.slave s.fc s.regAddr s.regCount = body) :
    execBuild s = succeed ((s.putOutput (body ++ crcBytes body)).putCrc (crc16 body)) := by
  subst h
  rfl

theorem exec_ends_build (s : State) : Ends .build s (exec .build s) := by
  have hb := requestBody_length s.slave s.fc s.regAddr s.regCount
  rw [exec_build, execBuild_eq s _ rfl]
  generalize requestBody s.slave s.fc s.regAddr s.regCount = body at hb ⊢
  have hl : (body ++ crcBytes body).length = 8 := by simp [hb]
  exact .succeed (frame_build _ hl)

/-- PARSE's success within its frame (42_frame.md R143). -/
theorem frame_parse {s : State} {p : Response} (h : p.payload.length = s.ilen.toNat - 4) :
    Frame .parse s (((s.putPayload p.payload).putCrc p.crc).record .ok 0 0) := by
  refine ⟨?_, frame_writeBytes h⟩
  cases s
  simp only [State.putPayload, State.putCrc, State.record, State.memWrite, State.setBuf,
    ErrCode.code]

/-- RDEC16's success within its frame (43_facade.md R161). -/
theorem frame_rdec16 {s : State} {p : Response} (x : Int) (d : Byte) (sg : Signedness)
    (bo : ByteOrder) (h : p.payload.length = s.ilen.toNat - 4) :
    Frame (.rdec16 d sg bo) s
      ((((s.putPayload p.payload).putCrc p.crc).putResult x d).record .ok 0 0) := by
  refine ⟨?_, frame_writeBytes h⟩
  cases s
  simp only [State.putPayload, State.putCrc, State.putResult, State.record, State.memWrite,
    State.setBuf, ErrCode.code]

/-- RDEC32's success within its frame (43_facade.md R162). -/
theorem frame_rdec32 {s : State} {p : Response} (x : Int) (d : Byte) (sg : Signedness)
    (bo : ByteOrder) (h : p.payload.length = s.ilen.toNat - 4) :
    Frame (.rdec32 d sg bo) s
      ((((s.putPayload p.payload).putCrc p.crc).putResult x d).record .ok 0 0) := by
  refine ⟨?_, frame_writeBytes h⟩
  cases s
  simp only [State.putPayload, State.putCrc, State.putResult, State.record, State.memWrite,
    State.setBuf, ErrCode.code]

theorem Ends.decodeResponse {i : Instr} {s : State} {n : Nat} {v : List Byte → Int} {d : Byte}
    {p : Response}
    (hf : ∀ x,
      Frame i s ((((s.putPayload p.payload).putCrc p.crc).putResult x d).record .ok 0 0)) :
    Ends i s (Machine.decodeResponse n v d s p) := by
  rcases decodeResponse_cases n v d s p with ⟨_, h⟩ | ⟨_, h⟩ <;> rw [h]
  · exact .raise .codecError _ _ (by decide)
  · exact .succeed (hf _)

/-- Every command ends in one of the three ways, from every state. -/
theorem exec_ends (i : Instr) (s : State) : Ends i s (exec i s) := by
  cases i with
  | crc =>
    rw [exec_crc, execCrc]
    split
    · exact .raise .capacityError _ _ (by decide)
    · exact .memRead (fun _ => by simp [reads]; omega) fun _ =>
        .succeed (frame_crc _ (by simp))
  | crcApp =>
    rw [exec_crcApp, execCrcApp]
    split
    · exact .raise .capacityError _ _ (by decide)
    · exact .memRead (fun ⟨_, _, _⟩ => by simp [reads]; omega) fun _ =>
        .succeed (frame_crcApp _ (by simp))
  | crcChk =>
    rw [exec_crcChk, execCrcChk]
    split
    · exact .raise .capacityError _ _ (by decide)
    split
    · exact .raise .tooShort _ _ (by decide)
    · refine .memRead (fun _ => by simp [reads]; omega) fun _ => ?_
      dsimp only
      split
      · exact .raise .checksumMismatch _ _ (by decide)
      · exact .succeed rfl
  | build => exact exec_ends_build s
  | parse =>
    rw [exec_parse, execParse]
    exact .readResponse (fun _ _ => by simp [reads]; omega) fun hg =>
      .succeed (frame_parse (length_responseOf s hg.1))
  | swap =>
    rw [exec_swap, execSwap]
    split
    · exact .raise .capacityError _ _ (by decide)
    split
    · exact .raise .codecError _ _ (by decide)
    · rename_i ho
      rw [getLsbD_zero_iff] at ho
      exact .memRead (fun _ => by simp [reads]; omega) fun _ =>
        .succeed (frame_swap (by simp))
  | dec16 d sg bo =>
    rw [exec_dec16, execDec16]
    split
    · rename_i hb
      exact .illegal (by simp [Instr.wf, hb]) _
    · rename_i hb
      exact .readPayload (fun h => by simp [reads, h, hb]) (.succeed rfl)
  | dec32 d sg bo =>
    rw [exec_dec32, execDec32]
    exact .readPayload (fun h => by simp [reads, h]) (.succeed rfl)
  | rdec16 d sg bo =>
    rw [exec_rdec16, execRdec16]
    split
    · rename_i hb
      exact .illegal (by simp [Instr.wf, hb]) _
    · rename_i hb
      exact .readResponse (fun _ _ => by simp [reads, hb]; omega) fun hg =>
        .decodeResponse fun x => frame_rdec16 x d sg bo (length_responseOf s hg.1)
  | rdec32 d sg bo =>
    rw [exec_rdec32, execRdec32]
    exact .readResponse (fun _ _ => by simp [reads]; omega) fun hg =>
      .decodeResponse fun x => frame_rdec32 x d sg bo (length_responseOf s hg.1)

end Sys2Proof.Machine
end

