-- ==== Sys2Proof/Laws/HostAccess.lean ====
section
/-! SUPPORT. The address map and the step (20_memory.md R50, R51). -/

namespace Sys2Proof.Machine

/-- A register stands at its offset, whatever the parameters (R22, R50). -/
@[simp] theorem locate_offset (p : Params) (r : Reg) : locate p r.offset = .register r := by
  cases r <;> rfl

@[simp] theorem base_ibuf : Buf.base .ibuf = 0x1000 := rfl
@[simp] theorem base_obuf : Buf.base .obuf = 0x2000 := rfl
@[simp] theorem base_pbuf : Buf.base .pbuf = 0x3000 := rfl

theorem inWindow_iff (p : Params) (b : Buf) (a : Nat) :
    inWindow p b a = true ↔ b.base ≤ a ∧ a < b.base + p.bufCap := by
  simp [inWindow]

/-- A buffer byte stands at its offset (R50). -/
theorem locate_byte {p : Params} (hp : p.Legal) {b : Buf} {i : Nat} {off : Half}
    (hi : i < p.bufCap) (ho : off.toNat = b.base + i) : locate p off = .byte b i := by
  obtain ⟨h8, h4, _⟩ := hp
  have hsub : off.toNat - b.base = i := by omega
  cases b <;> simp only [base_ibuf, base_obuf, base_pbuf] at ho <;>
    simp only [locate, inWindow_iff, base_ibuf, base_obuf, base_pbuf] <;>
    rw [if_neg (by omega)]
  · rw [if_pos (by omega)]
    exact congrArg _ hsub
  · rw [if_neg (by omega), if_pos (by omega)]
    exact congrArg _ hsub
  · rw [if_neg (by omega), if_neg (by omega), if_pos (by omega)]
    exact congrArg _ hsub

/-- What stands at an offset tells the offset (R50). -/
theorem locate_register_inv {p : Params} {off : Half} {r : Reg}
    (h : locate p off = .register r) : off = r.offset := by
  apply BitVec.eq_of_toNat_eq
  simp only [locate] at h
  split at h
  · rename_i hlt
    split at h
    · rename_i hm
      obtain ⟨k, hk⟩ : ∃ k, off.toNat / 4 = k := ⟨_, rfl⟩
      have hk' : off.toNat = 4 * k := by omega
      rw [hk] at h
      have : k < 15 := by omega
      interval_cases k <;> simp only [Reg.ofIndex, Location.register.injEq] at h <;>
        subst h <;> rw [hk'] <;> rfl
    · cases h
  · split at h
    · cases h
    · split at h
      · cases h
      · split at h <;> cases h

theorem locate_byte_inv {p : Params} {off : Half} {b : Buf} {i : Nat}
    (h : locate p off = .byte b i) : off.toNat = b.base + i ∧ i < p.bufCap := by
  simp only [locate] at h
  split at h
  · split at h
    · split at h <;> cases h
    · cases h
  · split at h
    · rename_i hw
      injection h with hb hi
      subst hb
      rw [inWindow_iff] at hw
      omega
    · split at h
      · rename_i hw
        injection h with hb hi
        subst hb
        rw [inWindow_iff] at hw
        omega
      · split at h
        · rename_i hw
          injection h with hb hi
          subst hb
          rw [inWindow_iff] at hw
          omega
        · cases h

/-- A step with an input to come performs it. -/
theorem step_cons {s : State} {a : Input} {rest : List Input} (h : s.pending = a :: rest) :
    step s = perform a { s with pending := rest } := by
  simp only [step, h]

theorem step_nil {s : State} (h : s.pending = []) : step s = .next s := by
  simp only [step, h]

/-- A word written to CMD is issued (30_encoding.md R70). -/
theorem perform_command (w : Word) (s : State) :
    perform (.write32 0x00 w) s = issueCommand w s := rfl

theorem issueCommand_ok {w : Word} {i : Instr} (h : decode w = .ok i) (s : State) :
    issueCommand w s = exec i (s.issue w) := by
  simp only [issueCommand, h]

theorem issueCommand_error {w : Word} {e : DecodeError} (h : decode w = .error e) (s : State) :
    issueCommand w s = .next ((s.issue w).failed 6 0 ((opField w).setWidth 16)) := by
  simp only [issueCommand, h]
  rfl

/-- What an input other than a command can do when it has a step: nothing to the block but one register
field, one buffer byte, or a reset (20_memory.md R60, 70_reset_and_hazards.md R210). -/
inductive Plain (s : State) : State → Prop
  | reset : Plain s s.platformReset
  | slave (v : Byte) : Plain s { s with slave := v }
  | fc (v : Byte) : Plain s { s with fc := v }
  | regAddr (v : Half) : Plain s { s with regAddr := v }
  | regCount (v : Half) : Plain s { s with regCount := v }
  | ilen (v : Half) : Plain s { s with ilen := v }
  | plen (v : Half) : Plain s { s with plen := v }
  | ibuf (i : Nat) (v : Byte) : i < s.params.bufCap → Plain s (s.memWrite .ibuf i [v])
  | pbuf (i : Nat) (v : Byte) : i < s.params.bufCap → Plain s (s.memWrite .pbuf i [v])
  | reply (r : Reply) : Plain s (s.reply r)
  | draw (r : Reply) : Plain s (s.draw.reply r)

/-- Everything an input can do that has a step: issue a command word, or a `Plain` effect. -/
theorem perform_next {a : Input} {s t : State} (h : perform a s = .next t) :
    (∃ w, a = .write32 0x00 w ∧ issueCommand w s = .next t) ∨ Plain s t := by
  cases a with
  | reset => injection h with h; subst h; exact .inr .reset
  | read32 off =>
    right
    simp only [perform, hostRead32] at h
    split at h <;> cases h
    exact .reply _
  | write32 off v =>
    simp only [perform, hostWrite32] at h
    split at h
    · rename_i r hl
      have := locate_register_inv hl
      cases r <;> simp only [writeRegister] at h <;> first | (cases h; done) | skip
      · left; exact ⟨v, by rw [this]; rfl, h⟩
      all_goals cases h; right; constructor
    all_goals cases h
  | read8 off =>
    right
    simp only [perform, hostRead8] at h
    split at h <;> cases h
    simp only [readBufferByte]
    split
    · exact .reply _
    · exact .draw _
  | write8 off v =>
    right
    simp only [perform, hostWrite8] at h
    split at h
    · cases h
    · cases h
    · rename_i b i hl
      have := (locate_byte_inv hl).2
      cases b <;> simp only [writeBufferByte] at h <;> cases h
      · exact .ibuf i v this
      · exact .pbuf i v this
    · cases h
  | readOther off n =>
    simp only [perform, hostOther] at h
    split at h <;> cases h
  | writeOther off n =>
    simp only [perform, hostOther] at h
    split at h <;> cases h

end Sys2Proof.Machine
end

