-- ==== Sys2Proof/Tests/Slice0.lean ====
section
/-! SUPPORT. Tests of one step each, on small states, with the results that spec/ states; and for every
obligation with hypotheses a witness that meets them, clause by clause. -/

namespace Sys2Proof.Tests

open Sys2Proof.Machine

/-! ### Helpers -/

/-- A field of the next state, none where the step stops. -/
def got {α : Type} (f : State → α) : Result → Option α
  | .next t => some (f t)
  | .fault _ => none
  | .refused _ => none

/-- The fault of a step. -/
def faultOf : Result → Option Fault
  | .next _ => none
  | .fault f => some f
  | .refused _ => none

/-- The refusal of a step. -/
def refusalOf : Result → Option Refusal
  | .next _ => none
  | .fault _ => none
  | .refused r => some r

/-- The next state, where there is one. -/
def after : Result → State
  | .next t => t
  | .fault _ => .reset
  | .refused _ => .reset

theorem next_after {α : Type} {f : State → α} {r : Result} (h : (got f r).isSome = true) :
    r = .next (after r) := by
  cases r <;> simp_all [got, after]

/-- After reset, the host has loaded bytes into IBUF and set ILEN. -/
def withI (bytes : List Byte) : State :=
  { State.reset with
    ibuf := Memory.writeBytes [] 0 bytes, ilen := BitVec.ofNat 16 bytes.length }

/-- After reset, the host has loaded bytes into PBUF and set PLEN. -/
def withP (bytes : List Byte) : State :=
  { State.reset with
    pbuf := Memory.writeBytes [] 0 bytes, plen := BitVec.ofNat 16 bytes.length }

/-- The smallest capacity, 8 bytes. -/
def small (s : State) : State := { s with params := { bufCap := 8, payloadSkip := 0 } }

/-- PAYLOAD_SKIP = 1. -/
def skipping (s : State) : State := { s with params := { bufCap := 1024, payloadSkip := 1 } }

/-- STATUS and DIAG. -/
def ends (t : State) : Word × Word := (readRegister t .status, readRegister t .diag)

/-- A host write to CMD. -/
def issue (w : Word) (s : State) : Result := perform (.write32 0x00 w) s

/-- The 8-byte frame with payload 00 00 01 00. -/
def longFrame : List Byte := [0x01, 0x04, 0x00, 0x00, 0x01, 0x00, 0xF1, 0x9A]

/-- The 6-byte frame with payload 04 D2. -/
def shortFrame : List Byte := [0x01, 0x02, 0x04, 0xD2, 0x22, 0x85]

/-- Entries of the lookup table, from an index on. -/
def tableFrom (i n : Nat) : List Half :=
  (List.range n).map fun k => crcTable (BitVec.ofNat 8 (i + k))

/-! ### Well-formedness: an ill-formed term for each check -/

theorem test_wf_dec16_bigSwap : (Instr.dec16 0 .unsigned .bigSwap).wf = false := by decide

theorem test_wf_dec16_littleSwap : (Instr.dec16 255 .signed .littleSwap).wf = false := by decide

theorem test_wf_rdec16_bigSwap : (Instr.rdec16 0 .unsigned .bigSwap).wf = false := by decide

theorem test_wf_rdec16_littleSwap : (Instr.rdec16 255 .signed .littleSwap).wf = false := by decide

theorem test_wf_dec32_takes_every_order :
    [ByteOrder.big, .little, .bigSwap, .littleSwap].all
      (fun bo => (Instr.dec32 7 .signed bo).wf && (Instr.rdec32 7 .signed bo).wf) = true := by
  decide

/-! ### Decoding: words written out from 30_encoding.md R72 to R78, R83 -/

theorem test_decode_crc : decode 0b00000000000000000000000000000001 = .ok .crc := by decide

theorem test_decode_crcApp : decode 0b00000000000000000000000000000010 = .ok .crcApp := by decide

theorem test_decode_crcChk : decode 0b00000000000000000000000000000011 = .ok .crcChk := by decide

theorem test_decode_build : decode 0b00000000000000000000000000000100 = .ok .build := by decide

theorem test_decode_parse : decode 0b00000000000000000000000000000101 = .ok .parse := by decide

theorem test_decode_swap : decode 0b00000000000000000000000000000110 = .ok .swap := by decide

/-- RSV 0, BO 01, SGN 1, DEC 0x02, OP 0x07. -/
theorem test_decode_dec16 :
    decode 0b00000000000000110000001000000111 = .ok (.dec16 2 .signed .little) := by decide

/-- RSV 0, BO 10, SGN 0, DEC 0x80, OP 0x08. -/
theorem test_decode_dec32 :
    decode 0b00000000000001001000000000001000 = .ok (.dec32 128 .unsigned .bigSwap) := by decide

/-- RSV 0, BO 00, SGN 1, DEC 0x01, OP 0x09. -/
theorem test_decode_rdec16 :
    decode 0b00000000000000010000000100001001 = .ok (.rdec16 1 .signed .big) := by decide

/-- RSV 0, BO 11, SGN 1, DEC 0xFF, OP 0x0A. -/
theorem test_decode_rdec32 :
    decode 0b00000000000001111111111100001010 = .ok (.rdec32 255 .signed .littleSwap) := by decide

/-- 95_test_vectors.md V6: the illegal words, with the reason the decoder names. -/
theorem test_decode_illegal :
    decode 0x00000000 = .error .opcode ∧ decode 0x00000101 = .error .unusedField ∧
      decode 0x00010006 = .error .unusedField ∧ decode 0x00020001 = .error .unusedField ∧
      decode 0x80000001 = .error .reservedBits ∧ decode 0x00060007 = .error .byteOrder ∧
      decode 0x00040009 = .error .byteOrder ∧ decode 0x000000FF = .error .opcode := by decide

/-- 30_encoding.md R83, the assembler examples. -/
theorem test_assemble :
    (assemble .DEC16 [.num 1, .sign .unsigned, .order .big]).map encode = some 0x00000107 ∧
      (assemble .DEC16 [.num 0, .sign .signed, .order .big]).map encode = some 0x00010007 ∧
      (assemble .DEC32 [.num 2, .sign .signed, .order .littleSwap]).map encode =
        some 0x00070208 ∧
      (assemble .CRC []).map encode = some 0x00000001 := by decide

/-- 30_encoding.md R83: omitted operands, and lines the assembler rejects. -/
theorem test_assemble_rejects :
    assemble .RDEC32 [] = some (.rdec32 0 .unsigned .big) ∧
      assemble .DEC32 [.num 256] = none ∧
      assemble .DEC16 [.num 0, .sign .unsigned, .order .littleSwap] = none ∧
      assemble .SWAP [.num 0] = none := by decide

theorem test_decodeTableWord :
    decodeTableWord 32 0x0007FF0A = some (.rdec32 255 .signed .littleSwap) ∧
      decodeTableWord 32 0x00080008 = none := by decide

/-- The word placed by `withFetchWord` is what the next step runs. -/
theorem test_withFetchWord :
    got ends (step (State.reset.withFetchWord 32 0x00000004)) = some (0x00000400, 0) := by
  decide

/-! ### The CRC function -/

/-- 40_crc.md R101, rows 0x00 to 0x38 of the printed table. -/
theorem test_crcTable_first :
    tableFrom 0 64 =
      [0x0000, 0xC0C1, 0xC181, 0x0140, 0xC301, 0x03C0, 0x0280, 0xC241] ++
      [0xC601, 0x06C0, 0x0780, 0xC741, 0x0500, 0xC5C1, 0xC481, 0x0440] ++
      [0xCC01, 0x0CC0, 0x0D80, 0xCD41, 0x0F00, 0xCFC1, 0xCE81, 0x0E40] ++
      [0x0A00, 0xCAC1, 0xCB81, 0x0B40, 0xC901, 0x09C0, 0x0880, 0xC841] ++
      [0xD801, 0x18C0, 0x1980, 0xD941, 0x1B00, 0xDBC1, 0xDA81, 0x1A40] ++
      [0x1E00, 0xDEC1, 0xDF81, 0x1F40, 0xDD01, 0x1DC0, 0x1C80, 0xDC41] ++
      [0x1400, 0xD4C1, 0xD581, 0x1540, 0xD701, 0x17C0, 0x1680, 0xD641] ++
      [0xD201, 0x12C0, 0x1380, 0xD341, 0x1100, 0xD1C1, 0xD081, 0x1040] := by
  decide

/-- 40_crc.md R101, rows 0x40 to 0x78 of the printed table. -/
theorem test_crcTable_second :
    tableFrom 64 64 =
      [0xF001, 0x30C0, 0x3180, 0xF141, 0x3300, 0xF3C1, 0xF281, 0x3240] ++
      [0x3600, 0xF6C1, 0xF781, 0x3740, 0xF501, 0x35C0, 0x3480, 0xF441] ++
      [0x3C00, 0xFCC1, 0xFD81, 0x3D40, 0xFF01, 0x3FC0, 0x3E80, 0xFE41] ++
      [0xFA01, 0x3AC0, 0x3B80, 0xFB41, 0x3900, 0xF9C1, 0xF881, 0x3840] ++
      [0x2800, 0xE8C1, 0xE981, 0x2940, 0xEB01, 0x2BC0, 0x2A80, 0xEA41] ++
      [0xEE01, 0x2EC0, 0x2F80, 0xEF41, 0x2D00, 0xEDC1, 0xEC81, 0x2C40] ++
      [0xE401, 0x24C0, 0x2580, 0xE541, 0x2700, 0xE7C1, 0xE681, 0x2640] ++
      [0x2200, 0xE2C1, 0xE381, 0x2340, 0xE101, 0x21C0, 0x2080, 0xE041] := by
  decide

/-- 40_crc.md R101, rows 0x80 to 0xB8 of the printed table. -/
theorem test_crcTable_third :
    tableFrom 128 64 =
      [0xA001, 0x60C0, 0x6180, 0xA141, 0x6300, 0xA3C1, 0xA281, 0x6240] ++
      [0x6600, 0xA6C1, 0xA781, 0x6740, 0xA501, 0x65C0, 0x6480, 0xA441] ++
      [0x6C00, 0xACC1, 0xAD81, 0x6D40, 0xAF01, 0x6FC0, 0x6E80, 0xAE41] ++
      [0xAA01, 0x6AC0, 0x6B80, 0xAB41, 0x6900, 0xA9C1, 0xA881, 0x6840] ++
      [0x7800, 0xB8C1, 0xB981, 0x7940, 0xBB01, 0x7BC0, 0x7A80, 0xBA41] ++
      [0xBE01, 0x7EC0, 0x7F80, 0xBF41, 0x7D00, 0xBDC1, 0xBC81, 0x7C40] ++
      [0xB401, 0x74C0, 0x7580, 0xB541, 0x7700, 0xB7C1, 0xB681, 0x7640] ++
      [0x7200, 0xB2C1, 0xB381, 0x7340, 0xB101, 0x71C0, 0x7080, 0xB041] := by
  decide

/-- 40_crc.md R101, rows 0xC0 to 0xF8 of the printed table. -/
theorem test_crcTable_fourth :
    tableFrom 192 64 =
      [0x5000, 0x90C1, 0x9181, 0x5140, 0x9301, 0x53C0, 0x5280, 0x9241] ++
      [0x9601, 0x56C0, 0x5780, 0x9741, 0x5500, 0x95C1, 0x9481, 0x5440] ++
      [0x9C01, 0x5CC0, 0x5D80, 0x9D41, 0x5F00, 0x9FC1, 0x9E81, 0x5E40] ++
      [0x5A00, 0x9AC1, 0x9B81, 0x5B40, 0x9901, 0x59C0, 0x5880, 0x9841] ++
      [0x8801, 0x48C0, 0x4980, 0x8941, 0x4B00, 0x8BC1, 0x8A81, 0x4A40] ++
      [0x4E00, 0x8EC1, 0x8F81, 0x4F40, 0x8D01, 0x4DC0, 0x4C80, 0x8C41] ++
      [0x4400, 0x84C1, 0x8581, 0x4540, 0x8701, 0x47C0, 0x4680, 0x8641] ++
      [0x8201, 0x42C0, 0x4380, 0x8341, 0x4100, 0x81C1, 0x8081, 0x4040] := by
  decide
/-- 95_test_vectors.md V1. -/
theorem test_crc16_small :
    crc16 [] = 0xFFFF ∧ crc16 [0x00] = 0x40BF ∧ crc16 [0x01] = 0x807E ∧ crc16 [0xFF] = 0x00FF ∧
      crc16 [0x01, 0x00] = 0x2000 ∧ crc16 [0xAA, 0xBB, 0xCC] = 0x4523 := by decide

/-- 95_test_vectors.md V1 and X2, and 40_crc.md R104. -/
theorem test_crc16_request :
    crc16 [0x01, 0x04, 0x0B, 0xB8, 0x00, 0x01] = 0xCBB3 ∧
      crcBytes [0x01, 0x04, 0x0B, 0xB8, 0x00, 0x01] = [0xB3, 0xCB] ∧
      crc16 [0x01, 0x04, 0x0B, 0xB8, 0x00, 0x01, 0xB3, 0xCB] = 0 := by decide

/-- 95_test_vectors.md V1, the check value, in both forms of 40_crc.md R103. -/
theorem test_crc16_check :
    crc16 [0x31, 0x32, 0x33, 0x34, 0x35, 0x36, 0x37, 0x38, 0x39] = 0x4B37 ∧
      bitSerialCrc [0x31, 0x32, 0x33, 0x34, 0x35, 0x36, 0x37, 0x38, 0x39] 0xFFFF = 0x4B37 := by
  decide +kernel

/-! ### The commands: one step each, with the vectors of 95_test_vectors.md -/

/-- V2. -/
theorem test_crc :
    got (fun t => (ends t, t.obuf, t.olen, t.crcv)) (issue 0x00000001 (withI [1, 2, 4, 0xD2])) =
      some ((0x00000100, 0), [(0, 0x22), (1, 0x85)], 2, 0x8522) := by decide

/-- V2: ILEN above the capacity, and an unwritten buffer. -/
theorem test_crc_stops :
    got ends (issue 0x00000001 { State.reset with ilen := 1025 }) =
        some (0x00000107, 0x04010400) ∧
      faultOf (issue 0x00000001 { State.reset with ilen := 4 }) =
        some (.unwritten .crc .ibuf 0) := by decide

/-- V2 and X1. -/
theorem test_crcApp :
    got (fun t => (ends t, t.obuf, t.olen, t.crcv)) (issue 0x00000002 (withI [0xAA, 0xBB, 0xCC])) =
      some
        ((0x00000200, 0), [(0, 0xAA), (1, 0xBB), (2, 0xCC), (3, 0x23), (4, 0x45)], 5, 0x4523) := by
  decide

/-- V2: no room for the CRC. -/
theorem test_crcApp_capacity :
    got ends (issue 0x00000002 { State.reset with ilen := 1023 }) =
      some (0x00000207, 0x03FF03FE) := by decide

/-- V2: the CRC bytes in the wrong order, and one flipped bit. -/
theorem test_crcChk :
    got ends (issue 0x00000003 (withI [1, 4, 0x0B, 0xB8, 0, 1, 0xCB, 0xB3])) =
        some (0x00000302, 0xB3CBCBB3) ∧
      got ends (issue 0x00000003 (withI [0xAA, 0xBA, 0xCC, 0x23, 0x45])) =
        some (0x00000302, 0x4523D522) := by decide

/-- V2: an empty body, and a frame too short for a CRC. -/
theorem test_crcChk_short :
    got (fun t => (ends t, t.crcv)) (issue 0x00000003 (withI [0xFF, 0xFF])) =
        some ((0x00000300, 0), 0xFFFF) ∧
      got ends (issue 0x00000003 (withI [0xAB])) = some (0x00000301, 0x00010002) := by
  decide

/-- V4.6. -/
theorem test_build :
    got (fun t => (ends t, t.obuf, t.olen, t.crcv))
        (issue 0x00000004
          { State.reset with slave := 7, fc := 3, regAddr := 0x006B, regCount := 3 }) =
      some
        ((0x00000400, 0),
          [(0, 7), (1, 3), (2, 0), (3, 0x6B), (4, 0), (5, 3), (6, 0x74), (7, 0x71)], 8,
          0x7174) := by decide

/-- V4.3: the high byte of the address goes first. -/
theorem test_build_order :
    got (fun t => (Memory.read t.obuf 2, Memory.read t.obuf 3))
        (issue 0x00000004 { State.reset with regAddr := 0x0BF6, regCount := 1 }) =
      some (some 0x0B, some 0xF6) := by decide

/-- V4: a payload of two bytes. -/
theorem test_parse :
    got (fun t => (ends t, t.pbuf, t.plen, t.crcv)) (issue 0x00000005 (withI shortFrame)) =
      some ((0x00000500, 0), [(0, 0x04), (1, 0xD2)], 2, 0x8522) := by decide

/-- V4: a wrong address (X8), a wrong CRC under a wrong address, and a short frame never written. -/
theorem test_parse_errors :
    got ends (issue 0x00000005 { withI shortFrame with slave := 2 }) =
        some (0x00000503, 0x00010002) ∧
      got ends (issue 0x00000005 { withI [1, 2, 4, 0xD2, 0x22, 0x84] with slave := 2 }) =
        some (0x00000502, 0x84228522) ∧
      got ends (issue 0x00000005 { State.reset with ilen := 3 }) =
        some (0x00000501, 0x00030004) := by decide

/-- V3. -/
theorem test_swap :
    got (fun t => (ends t, t.obuf, t.olen)) (issue 0x00000006 (withI [0x12, 0x34, 0x56, 0x78])) =
      some ((0x00000600, 0), [(0, 0x34), (1, 0x12), (2, 0x78), (3, 0x56)], 4) := by decide

/-- V3: the odd length is found before the read. -/
theorem test_swap_odd :
    got ends (issue 0x00000006 { State.reset with ilen := 3 }) =
      some (0x00000604, 0x00030000) := by decide

/-- V3, X3 and X4. -/
theorem test_dec16 :
    got (fun t => (t.rval, readRegister t .rinfo)) (issue 0x00000107 (withP [0x02, 0x6E])) =
        some (622, 0x00000101) ∧
      got (fun t => (readRegister t .rvalLo, readRegister t .rvalHi, readRegister t .rinfo))
          (issue 0x00010007 (withP [0xFF, 0xF6])) =
        some (0xFFFFFFF6, 0xFFFFFFFF, 0) := by decide

/-- V3: little-endian signed, and the corner cases of the errors. -/
theorem test_dec16_corners :
    got (fun t => t.rval.toInt) (issue 0x00030007 (withP [0x04, 0xD2])) = some (-11772) ∧
      got ends (issue 0x00000007 (withP [1, 2, 3])) = some (0x00000704, 0x00030002) ∧
      got ends (issue 0x00000007 { State.reset with plen := 1025 }) =
        some (0x00000707, 0x04010400) ∧
      got ends (issue 0x00040007 (withP [0x12, 0x34])) = some (0x00000706, 0x00070000) ∧
      faultOf (issue 0x00000007 { State.reset with plen := 2 }) =
        some (.unwritten (.dec16 0 .unsigned .big) .pbuf 0) := by decide

/-- V3, a signed pattern in the four byte orders. -/
theorem test_dec32 :
    got (fun t => t.rval.toInt) (issue 0x00010008 (withP [0xFF, 0xFF, 0xFF, 0x85])) =
        some (-123) ∧
      got (fun t => t.rval.toInt) (issue 0x00030008 (withP [0xFF, 0xFF, 0xFF, 0x85])) =
        some (-2046820353) ∧
      got (fun t => t.rval.toInt) (issue 0x00050008 (withP [0xFF, 0xFF, 0xFF, 0x85])) =
        some (-31233) ∧
      got (fun t => t.rval.toInt) (issue 0x00070008 (withP [0xFF, 0xFF, 0xFF, 0x85])) =
        some (-7995393) := by decide

/-- V3: the least signed value and its pattern unsigned; a register is no long. -/
theorem test_dec32_corners :
    got (fun t => t.rval.toInt) (issue 0x00010008 (withP [0x80, 0, 0, 0])) =
        some (-2147483648) ∧
      got (fun t => t.rval.toInt) (issue 0x00000008 (withP [0x80, 0, 0, 0])) =
        some 2147483648 ∧
      got ends (issue 0x00000008 (withP [1, 2])) = some (0x00000804, 0x00020004) := by
  decide

/-- V5. -/
theorem test_rdec16 :
    got (fun t => ((ends t, t.rval, readRegister t .rinfo), t.pbuf, t.plen, t.crcv))
        (issue 0x00010209 (withI shortFrame)) =
      some (((0x00000900, 0), 1234, 0x00000102), [(0, 0x04), (1, 0xD2)], 2, 0x8522) := by
  decide

/-- V5 with PAYLOAD_SKIP = 1, and the same frame without. -/
theorem test_rdec16_skip :
    got (fun t => (t.rval, t.pbuf, t.plen, t.crcv))
        (issue 0x00000009 (skipping (withI [1, 4, 2, 4, 0xD2, 0x3B, 0xAD]))) =
        some (1234, [(0, 0x02), (1, 0x04), (2, 0xD2)], 3, 0xAD3B) ∧
      got ends (issue 0x00000009 (withI [1, 4, 2, 4, 0xD2, 0x3B, 0xAD])) =
        some (0x00000904, 0x00030002) ∧
      got ends (issue 0x00000009 (skipping (withI shortFrame))) =
        some (0x00000904, 0x00020003) := by decide

/-- V5. -/
theorem test_rdec32 :
    got (fun t => (t.rval.toInt, readRegister t .rinfo, t.crcv))
        (issue 0x0001030A (withI [1, 4, 0xFF, 0xFF, 0xFF, 0x85, 0x70, 0x7D])) =
      some (-123, 0x00000103, 0x7D70) := by decide

/-- V5: a register is no long, and nothing but STATUS and DIAG changes. -/
theorem test_rdec32_error :
    got (fun t => (ends t, t.pbuf, t.plen, t.crcv, t.rval)) (issue 0x0000000A (withI shortFrame)) =
      some ((0x00000A04, 0x00020004), [], 0, 0, 0) := by decide

/-- V6: an illegal word. -/
theorem test_illegal :
    got ends (issue 0x00080001 State.reset) = some (0x00000106, 0x00010000) ∧
      got ends (issue 0x000000FF State.reset) = some (0x0000FF06, 0x00FF0000) := by
  decide

/-! ### Reset, the host's accesses and its statements -/

/-- 10_state.md section 2, the reset column, at every register. -/
theorem test_reset :
    [Reg.cmd, .status, .diag, .slave, .fc, .regAddr, .regCount, .ilen, .olen, .plen, .rvalLo,
        .rvalHi, .rinfo, .crcv, .param].map (readRegister State.reset) =
      [0, 0, 0, 1, 4, 0, 0, 0, 0, 0, 0, 0, 0, 0, 0x01000400] := by decide

theorem test_reset_memory_wf :
    Memory.wf State.reset.ibuf = true ∧ Memory.wf State.reset.obuf = true ∧
      Memory.wf State.reset.pbuf = true := by decide

/-- 10_state.md R38: reserved bits of a write are ignored. -/
theorem test_write_slave :
    got (fun t => readRegister t .slave) (perform (.write32 0x0C 0xFFFFFF02) State.reset) =
      some 0x00000002 := by decide

/-- 20_memory.md R50, R51: the accesses that are refused. -/
theorem test_refused :
    refusalOf (perform (.write32 0x04 0) State.reset) = some (.readOnlyRegister .status) ∧
      refusalOf (perform (.read32 0x3C) State.reset) = some (.unmapped 0x3C) ∧
      refusalOf (perform (.read32 0x02) State.reset) = some (.misaligned 0x02) ∧
      refusalOf (perform (.read8 0x04) State.reset) = some (.registerWidth 0x04) ∧
      refusalOf (perform (.read32 0x1000) State.reset) = some (.bufferWidth 0x1000) ∧
      refusalOf (perform (.write8 0x2000 0) State.reset) = some (.readOnlyBuffer 0) ∧
      refusalOf (perform (.write8 0x1400 0) State.reset) = some (.unmapped 0x1400) := by decide

/-- 20_memory.md R50: the last byte of a buffer. -/
theorem test_buffer_edge :
    got (fun t => t.pbuf) (perform (.write8 0x33FF 0xA5) State.reset) =
      some [(1023, 0xA5)] := by decide

/-- 20_memory.md section 2: a written byte reads back. -/
theorem test_buffer_read :
    got (fun t => t.replies) (perform (.read8 0x1001) (withI [0x11, 0x22])) =
      some [.byte 0x22] := by decide

/-- 95_test_vectors.md P1: the encodings of the statements of `read_register 3062, 0, u`. -/
theorem test_readRegisterProgram :
    readRegisterProgram 3062 0 .unsigned (some shortFrame) =
      [.write32 0x14 0x00000BF6, .write32 0x18 0x00000001, .write32 0x00 0x00000004,
          .read32 0x20, .read8 0x2000, .read8 0x2001, .read8 0x2002, .read8 0x2003,
          .read8 0x2004, .read8 0x2005, .read8 0x2006, .read8 0x2007] ++
        [.write8 0x1000 0x01, .write8 0x1001 0x02, .write8 0x1002 0x04, .write8 0x1003 0xD2,
          .write8 0x1004 0x22, .write8 0x1005 0x85, .write32 0x1C 0x00000006,
          .write32 0x00 0x00000009, .read32 0x04, .read32 0x28, .read32 0x2C,
          .read32 0x30] := by decide

/-- 43_facade.md R166: an empty read, like a timeout, ends the transaction after the request is sent. -/
theorem test_transaction_noResponse :
    [none, some []].map (readRegisterProgram 3062 0 .unsigned) =
      List.replicate 2
        [.write32 0x14 0x00000BF6, .write32 0x18 0x00000001, .write32 0x00 0x00000004,
          .read32 0x20, .read8 0x2000, .read8 0x2001, .read8 0x2002, .read8 0x2003,
          .read8 0x2004, .read8 0x2005, .read8 0x2006, .read8 0x2007] := by decide

/-- 95_test_vectors.md P2: the command of `read_long 3000`. -/
theorem test_readLongProgram :
    Input.write32 0x00 0x0007020A ∈
      readLongProgram 3000 .signed .littleSwap 2 (some longFrame) := by decide

/-- 95_test_vectors.md P5, step 1. -/
theorem test_loadP :
    loadP [0x02, 0x6E] =
      [.write8 0x3000 0x02, .write8 0x3001 0x6E, .write32 0x24 0x00000002] := by decide

/-- 95_test_vectors.md P2: the decoded value is -1.23. -/
theorem test_decodedValue :
    decodedValue { State.reset with rval := BitVec.ofInt 64 (-123), rdec := 2, rkind := 1 } =
      -1.23 := by
  have h : (BitVec.ofInt 64 (-123)).toInt = -123 := by decide
  have h2 : (2 : Byte).toNat = 2 := rfl
  simp only [decodedValue, h, h2]
  norm_num

/-! ### Witnesses: for each obligation with hypotheses, what meets them, clause by clause -/

theorem witness_CommandWriteRunsTheDecodedCommand :
    decode 0x0007FF0A = .ok (.rdec32 255 .signed .littleSwap) ∧
      decode 0x00080000 = .error .reservedBits := by decide

theorem witness_StepRunsTheOldestInput :
    State.reset.pending = [] ∧
      { State.reset with pending := [.reset, .reset] }.pending = Input.reset :: [.reset] ∧
      (State.reset.withFetchWord 32 1).pending = .write32 0x00 1 :: [] ∧
      decode 1 = .ok .crc := by decide

theorem witness_DecodeOfEncodeIsTheCommand :
    Instr.crc.wf = true ∧ Instr.crcApp.wf = true ∧ Instr.crcChk.wf = true ∧
      Instr.build.wf = true ∧ Instr.parse.wf = true ∧ Instr.swap.wf = true ∧
      (Instr.dec16 255 .signed .little).wf = true ∧
      (Instr.dec32 255 .signed .littleSwap).wf = true ∧
      (Instr.rdec16 0 .unsigned .big).wf = true ∧
      (Instr.rdec32 0 .unsigned .bigSwap).wf = true := by decide

theorem witness_EncodeOfDecodeIsTheWord :
    decode 0x0003FF07 = .ok (.dec16 255 .signed .little) ∧ decode 0x00000006 = .ok .swap := by
  decide

/-- The last word of each row with operands, and the word after it, which is in no row. -/
theorem witness_DecodeAgreesWithTheOpcodeMap :
    (0x0003FF07 : Word) &&& 0xFFFC00FF = 0x00000007 ∧
      (0x0007FF08 : Word) &&& 0xFFF800FF = 0x00000008 ∧
      (0x0003FF09 : Word) &&& 0xFFFC00FF = 0x00000009 ∧
      (0x0007FF0A : Word) &&& 0xFFF800FF = 0x0000000A ∧
      (0x00040007 : Word) &&& 0xFFFC00FF ≠ 0x00000007 ∧
      decode 0x00040007 = .error .byteOrder := by decide

theorem witness_OperandsAreTheWordsFields :
    decode 0x0003FF07 = .ok (.dec16 255 .signed .little) ∧
      decode 0x0007FF08 = .ok (.dec32 255 .signed .littleSwap) ∧
      decode 0x00000009 = .ok (.rdec16 0 .unsigned .big) ∧
      decode 0x0004010A = .ok (.rdec32 1 .unsigned .bigSwap) := by decide

/-- Each case at its boundary, and the words beside it that are legal. -/
theorem witness_IllegalWordsRaiseIllegalCommand :
    IllegalWord 0x00080008 ∧ IllegalWord 0x00000000 ∧ IllegalWord 0x0000000B ∧
      IllegalWord 0x000000FF ∧ IllegalWord 0x00000101 ∧ IllegalWord 0x00040006 ∧
      IllegalWord 0x00040007 ∧ IllegalWord 0x00060009 ∧ ¬ IllegalWord 0x00000001 ∧
      ¬ IllegalWord 0x0007FF0A ∧ ¬ IllegalWord 0x0003FF09 := by
  simp [IllegalWord]

theorem witness_NoCommandLeavesStatusZero :
    ∃ t, perform (.write32 0x00 0x00000001) State.reset = .next t :=
  ⟨_, next_after (f := State.err) (by decide)⟩

theorem witness_RegisterReadsReturnTheirFields :
    State.reset.params.Legal ∧ (small State.reset).params.Legal ∧
      { bufCap := 4096, payloadSkip := 1 : Params }.Legal := by decide

theorem witness_ParamIsConstant :
    State.reset.params.Legal ∧ ∃ t, step State.reset = .next t := ⟨by decide, _, rfl⟩

theorem witness_RegisterWritesKeepFieldBits :
    ∃ t, perform (.write32 0x00 0x0007FF0A) State.reset = .next t :=
  ⟨_, next_after (f := State.err) (by decide)⟩

theorem witness_ExactlyTheInadmissibleAccessesAreRefused :
    (small State.reset).params.Legal ∧ Admitted (small State.reset).params (.read8 0x1007) ∧
      Admitted (small State.reset).params (.write32 0x24 0) ∧
      ¬ Admitted (small State.reset).params (.writeOther 0x00 16) ∧
      (∃ r, perform (.read8 0x1008) (small State.reset) = .refused r) ∧
      (∃ r, perform (.write8 0x2000 0) (small State.reset) = .refused r) :=
  ⟨by decide, ⟨.ibuf, by unfold InBuffer; decide⟩, ⟨.plen, by decide⟩, id, ⟨_, rfl⟩, ⟨_, rfl⟩⟩

theorem witness_HostReadsChangeNothing :
    (∃ t, perform (.read32 0x38) State.reset = .next t ∧ t.draws = 0) ∧
      (∃ t, perform (.read8 0x1000) (withI [7]) = .next t ∧ t.draws = 0) ∧
      (∃ t, perform (.read8 0x33FF) State.reset = .next t ∧ t.draws = 1) :=
  ⟨⟨_, rfl, rfl⟩, ⟨_, rfl, rfl⟩, ⟨_, rfl, rfl⟩⟩

theorem witness_BufferReadReturnsTheLastValueWritten :
    (withI [7]).params.Legal ∧ 0 < (withI [7]).params.bufCap ∧
      (0x1000 : Half).toNat = Buf.ibuf.base + 0 ∧
      Memory.read ((withI [7]).buf .ibuf) 0 = some 7 ∧
      1023 < (withI [7]).params.bufCap ∧ (0x33FF : Half).toNat = Buf.pbuf.base + 1023 ∧
      Memory.read ((withI [7]).buf .pbuf) 1023 = none := by decide

theorem witness_HostByteWriteChangesOneByte :
    State.reset.params.Legal ∧ 1023 < State.reset.params.bufCap ∧
      (0x13FF : Half).toNat = 0x1000 + 1023 ∧ (0x33FF : Half).toNat = 0x3000 + 1023 := by decide

theorem witness_EveryStepTakesOneInput :
    ∃ t, step (State.reset.withFetchWord 32 1) = .next t :=
  ⟨_, next_after (f := State.err) (by decide)⟩

/-- ILEN one above the capacity, at the capacity with all bytes written, and 0. -/
theorem witness_CrcCommand :
    (small { State.reset with ilen := 9 }).params.bufCap <
        (small { State.reset with ilen := 9 }).ilen.toNat ∧
      (small (withI longFrame)).ilen.toNat ≤ (small (withI longFrame)).params.bufCap ∧
      Written (small (withI longFrame)).ibuf (small (withI longFrame)).ilen.toNat ∧
      Written State.reset.ibuf State.reset.ilen.toNat := by decide

/-- ILEN two below the capacity, and one above that. -/
theorem witness_CrcAppendCommand :
    (small (withI shortFrame)).params.Legal ∧
      (small { State.reset with ilen := 7 }).params.bufCap <
        (small { State.reset with ilen := 7 }).ilen.toNat + 2 ∧
      (small (withI shortFrame)).ilen.toNat + 2 ≤ (small (withI shortFrame)).params.bufCap ∧
      Written (small (withI shortFrame)).ibuf (small (withI shortFrame)).ilen.toNat := by
  decide

/-- ILEN above the capacity; 1; 2 with a matching and with another CRC. -/
theorem witness_CrcCheckCommand :
    { State.reset with ilen := 1025 }.params.bufCap <
        { State.reset with ilen := 1025 }.ilen.toNat ∧
      (withI [0xAB]).ilen.toNat < 2 ∧
      2 ≤ (withI [0xFF, 0xFF]).ilen.toNat ∧
      Written (withI [0xFF, 0xFF]).ibuf (withI [0xFF, 0xFF]).ilen.toNat ∧
      computedCrc (withI [0xFF, 0xFF]) = receivedCrc (withI [0xFF, 0xFF]) ∧
      Written (withI [0, 0]).ibuf (withI [0, 0]).ilen.toNat ∧
      computedCrc (withI [0, 0]) ≠ receivedCrc (withI [0, 0]) := by decide

theorem goodResponse_longFrame : GoodResponse (small (withI longFrame)) := by
  unfold GoodResponse
  decide

theorem goodResponse_shortFrame : GoodResponse (withI shortFrame) := by
  unfold GoodResponse
  decide

/-- The shortest good response, 4 bytes, with an empty payload. -/
theorem goodResponse_empty : GoodResponse (withI [0x01, 0x00, 0x00, 0x20]) := by
  unfold GoodResponse
  decide

/-- The hypotheses of `RejectsBadResponses`: ILEN above the capacity, 3, and complete frames with a wrong
CRC and with a wrong address. -/
theorem witness_RejectsBadResponses :
    (small { State.reset with ilen := 9 }).params.bufCap <
        (small { State.reset with ilen := 9 }).ilen.toNat ∧
      { State.reset with ilen := 3 }.ilen.toNat < 4 ∧
      Written (withI [1, 2, 4, 0xD2, 0x22, 0x84]).ibuf 6 ∧
      computedCrc (withI [1, 2, 4, 0xD2, 0x22, 0x84]) ≠
        receivedCrc (withI [1, 2, 4, 0xD2, 0x22, 0x84]) ∧
      Written (withI shortFrame).ibuf 6 ∧
      computedCrc { withI shortFrame with slave := 2 } =
        receivedCrc { withI shortFrame with slave := 2 } ∧
      byteOf (withI shortFrame).ibuf 0 ≠ 2 := by decide

/-- ILEN = BUF_CAP = 8, and the shortest response. -/
theorem witness_ParseCommand :
    GoodResponse (small (withI longFrame)) ∧ GoodResponse (withI [0x01, 0x00, 0x00, 0x20]) :=
  ⟨goodResponse_longFrame, goodResponse_empty⟩

/-- ILEN above the capacity, odd, even at the capacity, and 0. -/
theorem witness_SwapCommand :
    (small { State.reset with ilen := 9 }).params.bufCap <
        (small { State.reset with ilen := 9 }).ilen.toNat ∧
      (withI [1, 2, 3]).ilen.toNat % 2 = 1 ∧
      (small (withI longFrame)).ilen.toNat ≤ (small (withI longFrame)).params.bufCap ∧
      (small (withI longFrame)).ilen.toNat % 2 = 0 ∧
      Written (small (withI longFrame)).ibuf (small (withI longFrame)).ilen.toNat ∧
      State.reset.ilen.toNat % 2 = 0 ∧ Written State.reset.ibuf State.reset.ilen.toNat := by
  decide

theorem witness_Dec16Command :
    ByteOrder.bigSwap.swaps = true ∧ ByteOrder.littleSwap.swaps = true ∧
      ByteOrder.little.swaps = false ∧ ByteOrder.big.swaps = false ∧
      (small { State.reset with plen := 9 }).params.bufCap <
        (small { State.reset with plen := 9 }).plen.toNat ∧
      (withP [1, 2, 3]).plen.toNat ≠ 2 ∧ (withP [0x80, 0]).plen.toNat = 2 ∧
      Written (withP [0x80, 0]).pbuf 2 := by decide

theorem witness_Dec32Command :
    opField 0x00080008 = 0x08 ∧ 524288 ≤ (0x00080008 : Word).toNat ∧
      (small { State.reset with plen := 9 }).params.bufCap <
        (small { State.reset with plen := 9 }).plen.toNat ∧
      (withP [1, 2]).plen.toNat ≠ 4 ∧ (withP [0x80, 0, 0, 0]).plen.toNat = 4 ∧
      Written (withP [0x80, 0, 0, 0]).pbuf 4 := by decide

/-- With either PAYLOAD_SKIP, a payload of the right and of another length. -/
theorem witness_Rdec16Command :
    GoodResponse (withI shortFrame) ∧ (withI shortFrame).ilen.toNat = 6 + 0 ∧
      GoodResponse (small (withI longFrame)) ∧ (small (withI longFrame)).ilen.toNat ≠ 6 + 0 ∧
      (skipping (withI shortFrame)).params.Legal ∧ GoodResponse (skipping (withI shortFrame)) ∧
      (skipping (withI shortFrame)).ilen.toNat ≠
        6 + (skipping (withI shortFrame)).params.payloadSkip ∧
      GoodResponse (skipping (withI [1, 4, 2, 4, 0xD2, 0x3B, 0xAD])) ∧
      (skipping (withI [1, 4, 2, 4, 0xD2, 0x3B, 0xAD])).ilen.toNat = 6 + 1 := by
  unfold GoodResponse
  decide

theorem witness_Rdec32Command :
    (small (withI longFrame)).params.Legal ∧ GoodResponse (small (withI longFrame)) ∧
      (small (withI longFrame)).ilen.toNat = 8 + 0 ∧ GoodResponse (withI shortFrame) ∧
      (withI shortFrame).ilen.toNat ≠ 8 + 0 ∧ GoodResponse (skipping (withI longFrame)) ∧
      (skipping (withI longFrame)).ilen.toNat ≠
        8 + (skipping (withI longFrame)).params.payloadSkip := by
  unfold GoodResponse
  decide

/-- The last byte of the input is the unwritten one. -/
theorem witness_CommandsFaultExactlyOnUnwrittenInput :
    State.reset.params.Legal ∧
      reads .parse { withI [1, 0, 0] with ilen := 4 } = some (.ibuf, 4) ∧
      Memory.read ({ withI [1, 0, 0] with ilen := 4 }.buf .ibuf) 3 = none ∧
      exec .parse { withI [1, 0, 0] with ilen := 4 } = .fault (.unwritten .parse .ibuf 3) :=
  ⟨by decide, by decide, by decide, rfl⟩

theorem witness_CommandsStayBelowTheCapacity :
    (small (withI longFrame)).params.Legal ∧
      reads .crc (small (withI longFrame)) = some (.ibuf, 8) ∧
      ∃ t, exec .crc (small (withI longFrame)) = .next t :=
  ⟨by decide, by decide, _, next_after (f := State.err) (by decide)⟩

theorem witness_FailingCommandsChangeOnlyStatusAndDiag :
    (∃ t, exec .parse State.reset = .next t ∧ t.err ≠ 0) ∧
      ∃ t, perform (.write32 0x00 0x00000000) State.reset = .next t ∧ t.err ≠ 0 :=
  ⟨⟨_, rfl, by decide⟩, ⟨_, rfl, by decide⟩⟩

/-- Each command ends in success somewhere. -/
theorem witness_SuccessfulCommandsKeepTheirFrame :
    got State.err (exec .crc (withI [1])) = some 0 ∧
      got State.err (exec .crcApp (withI [1])) = some 0 ∧
      got State.err (exec .crcChk (withI shortFrame)) = some 0 ∧
      got State.err (exec .build State.reset) = some 0 ∧
      got State.err (exec .parse (withI shortFrame)) = some 0 ∧
      got State.err (exec .swap (withI shortFrame)) = some 0 ∧
      got State.err (exec (.dec16 0 .signed .little) (withP [1, 2])) = some 0 ∧
      got State.err (exec (.dec32 0 .signed .littleSwap) (withP [1, 2, 3, 4])) = some 0 ∧
      got State.err (exec (.rdec16 1 .signed .big) (withI shortFrame)) = some 0 ∧
      got State.err (exec (.rdec32 1 .signed .bigSwap) (withI longFrame)) = some 0 := by
  decide

/-- Each clause with its length at the limit and one above it. -/
theorem witness_CapacityErrorComesFirst :
    (small State.reset).params.Legal ∧ (Instr.rdec16 0 .unsigned .little).wf = true ∧
      (small { State.reset with ilen := 8 }).ilen.toNat =
        (small State.reset).params.bufCap ∧
      (small State.reset).params.bufCap < (small { State.reset with ilen := 9 }).ilen.toNat ∧
      (small State.reset).params.bufCap <
        (small { State.reset with ilen := 7 }).ilen.toNat + 2 ∧
      (small State.reset).params.bufCap < (small { State.reset with plen := 9 }).plen.toNat := by
  decide

/-- ILEN = 3 for the responses, ILEN = 1 for CRCCHK, and both errors. -/
theorem witness_TooShortComesBeforeTheRead :
    { State.reset with ilen := 3 }.params.Legal ∧
      { State.reset with ilen := 3 }.ilen.toNat < 4 ∧
      { State.reset with ilen := 1 }.ilen.toNat < 2 ∧
      (∃ t, exec (.rdec32 0 .unsigned .big) { State.reset with ilen := 3 } = .next t ∧
        t.err = 1) ∧
      ∃ t, exec .crcChk { State.reset with ilen := 1 } = .next t ∧ t.err = 1 :=
  ⟨by decide, by decide, by decide, ⟨_, rfl, by decide⟩, ⟨_, rfl, by decide⟩⟩

theorem witness_MismatchErrorsCarryBothValues :
    got State.err (exec .crcChk (withI [0, 0])) = some 2 ∧
      got State.err (exec .parse { withI shortFrame with slave := 2 }) = some 3 := by
  decide

theorem witness_RequestRegistersMatterToBuildOnly : Instr.parse ≠ .build := by decide

/-- The same response in a block that holds other values everywhere else. -/
def otherwise (s : State) : State :=
  { s with fc := 9, regAddr := 1, pbuf := [(0, 7)], plen := 1, rval := 5, crcv := 3, obuf := [] }

theorem witness_ResponsesDecideTheResult :
    (withI shortFrame).params = (otherwise (withI shortFrame)).params ∧
      (withI shortFrame).slave = (otherwise (withI shortFrame)).slave ∧
      (withI shortFrame).ilen = (otherwise (withI shortFrame)).ilen ∧
      (∀ j, j < (withI shortFrame).ilen.toNat →
        Memory.read (withI shortFrame).ibuf j =
          Memory.read (otherwise (withI shortFrame)).ibuf j) ∧
      got State.err (exec .parse (withI shortFrame)) = some 0 ∧
      got State.err (exec (.rdec16 0 .signed .big) (withI shortFrame)) = some 0 ∧
      got State.err (exec (.rdec32 0 .signed .big) (withI shortFrame)) = some 4 ∧
      faultOf (exec .parse { State.reset with ilen := 4 }) =
        some (.unwritten .parse .ibuf 0) := by decide

/-- A success, a failing parse and a failing decode. -/
theorem witness_CompositeIsParseThenDecode :
    (withI shortFrame).params.Legal ∧ (withI shortFrame).params.payloadSkip = 0 ∧
      ByteOrder.little.swaps = false ∧
      got State.err (exec (.rdec16 0 .signed .little) (withI shortFrame)) = some 0 ∧
      got State.err (exec (.rdec32 0 .signed .littleSwap) (withI longFrame)) = some 0 ∧
      got State.err (exec .parse State.reset) = some 1 ∧
      got State.err (exec .parse (withI shortFrame)) = some 0 ∧
      got State.err (exec (.dec32 0 .signed .big) (after (exec .parse (withI shortFrame)))) =
        some 4 := by decide

/-- CRCAPP's output at the full capacity, copied into IBUF. -/
def appended : State := after (exec .crcApp (small (withI shortFrame)))

/-- The host's copy of OBUF into IBUF. -/
def copied (t : State) : State := { t with ibuf := t.obuf, ilen := t.olen }

theorem witness_AppendThenCheckSucceeds :
    (small (withI shortFrame)).params.Legal ∧
      exec .crcApp (small (withI shortFrame)) = .next appended ∧ appended.err = 0 ∧
      (copied appended).params = (small (withI shortFrame)).params ∧
      (copied appended).ilen = appended.olen ∧ (copied appended).ilen = 8 ∧
      ∀ j, j < appended.olen.toNat →
        Memory.read (copied appended).ibuf j = Memory.read appended.obuf j :=
  ⟨by decide, next_after (f := State.err) (by decide), by decide +kernel,
    by decide, rfl, by decide +kernel, fun _ _ => rfl⟩

/-- The copy with bit 7 of its last byte flipped. -/
def flipped : State :=
  { copied appended with
    ibuf := Memory.write appended.obuf 7 (byteOf appended.obuf 7 ^^^ BitVec.ofNat 8 (2 ^ 7)) }

theorem witness_SingleBitFlipIsDetected :
    exec .crcApp (small (withI shortFrame)) = .next appended ∧ appended.err = 0 ∧
      flipped.params = (small (withI shortFrame)).params ∧ flipped.ilen = appended.olen ∧
      7 < appended.olen.toNat ∧
      (∀ j, j < appended.olen.toNat → j ≠ 7 →
        Memory.read flipped.ibuf j = Memory.read appended.obuf j) ∧
      Memory.read flipped.ibuf 7 =
        (Memory.read appended.obuf 7).map (fun b => b ^^^ BitVec.ofNat 8 (2 ^ 7)) :=
  ⟨next_after (f := State.err) (by decide), by decide +kernel, by decide +kernel,
    by decide, by decide +kernel, by decide +kernel, by decide +kernel⟩

/-- SWAP's output. -/
def swapped : State := after (exec .swap (withI shortFrame))

theorem witness_SwapTwiceRestoresTheInput :
    exec .swap (withI shortFrame) = .next swapped ∧ swapped.err = 0 ∧
      (copied swapped).params = (withI shortFrame).params ∧
      (copied swapped).ilen = swapped.olen ∧
      ∀ j, j < swapped.olen.toNat →
        Memory.read (copied swapped).ibuf j = Memory.read swapped.obuf j :=
  ⟨next_after (f := State.err) (by decide), by decide, by decide, rfl, fun _ _ => rfl⟩

/-- Each decode at an end of its range. -/
theorem witness_DecodedValuesStayInRange :
    got (fun t => (t.err, t.rval.toInt)) (exec (.dec16 0 .unsigned .big) (withP [0xFF, 0xFF])) =
        some (0, 65535) ∧
      got (fun t => (t.err, t.rval.toInt)) (exec (.dec16 0 .signed .big) (withP [0x80, 0])) =
        some (0, -32768) ∧
      got (fun t => (t.err, t.rval.toInt))
          (exec (.dec32 0 .unsigned .big) (withP [0xFF, 0xFF, 0xFF, 0xFF])) =
        some (0, 4294967295) ∧
      got (fun t => (t.err, t.rval.toInt))
          (exec (.dec32 0 .signed .big) (withP [0x80, 0, 0, 0])) =
        some (0, -2147483648) ∧
      got State.err (exec (.rdec16 0 .signed .big) (withI shortFrame)) = some 0 ∧
      got State.err (exec (.rdec32 0 .signed .big) (withI longFrame)) = some 0 := by
  decide

/-- Each of the four decodes, with decimals and without, and the value it denotes. -/
theorem witness_DecodedValueIsTheExactQuotient :
    got (fun t => (t.err, t.rval.toInt)) (exec (.dec16 0 .signed .big) (withP [0xFF, 0xF6])) =
        some (0, value16At (withP [0xFF, 0xF6]).pbuf 0 .signed .big) ∧
      got (fun t => (t.err, t.rval.toInt))
          (exec (.dec32 255 .signed .big) (withP [0xFF, 0xFF, 0xFF, 0x85])) =
        some (0, value32At (withP [0xFF, 0xFF, 0xFF, 0x85]).pbuf 0 .signed .big) ∧
      got (fun t => (t.err, t.rval.toInt))
          (exec (.rdec16 1 .unsigned .little) (withI shortFrame)) =
        some (0, value16At (withI shortFrame).ibuf 2 .unsigned .little) ∧
      got (fun t => (t.err, t.rval.toInt))
          (exec (.rdec32 0 .unsigned .littleSwap) (withI longFrame)) =
        some (0, value32At (withI longFrame).ibuf 2 .unsigned .littleSwap) := by
  decide

theorem reset_memInv : State.reset.MemInv := by
  constructor <;> decide

theorem reset_regInv : State.reset.RegInv := by
  constructor
  · decide
  · decide
  · decide
  · exact fun _ => .inr (by decide)
  · exact fun _ => by decide
  · decide
  · decide

theorem reset_diagInv : State.reset.DiagInv := by
  constructor <;> decide

theorem witness_EveryStepKeepsTheMemoryInvariant :
    State.reset.MemInv ∧ ∃ t, step State.reset = .next t := ⟨reset_memInv, _, rfl⟩

theorem witness_EveryStepKeepsTheRegisterInvariant :
    State.reset.RegInv ∧ ∃ t, step State.reset = .next t := ⟨reset_regInv, _, rfl⟩

theorem witness_EveryStepKeepsDiagFittingErr :
    State.reset.params.Legal ∧ State.reset.DiagInv ∧ ∃ t, step State.reset = .next t :=
  ⟨by decide, reset_diagInv, _, rfl⟩

end Sys2Proof.Tests
end

/-! What every step leaves of the state's parameters, and what a host write to a register stores
(10_state.md R36, R38). -/

namespace Sys2Proof.Machine

/-! ### PARAM and CMD through a command -/

/-- The frame of a successful command leaves the parameters and CMD as they were (R36, R42). -/
theorem Frame.params_cmd {i : Instr} {s t : State} (h : Frame i s t) :
    t.params = s.params ∧ t.cmd = s.cmd := by
  cases i with
  | crcChk | dec16 | dec32 => exact ⟨(congrArg State.params h :), (congrArg State.cmd h :)⟩
  | crc | crcApp | build | parse | swap | rdec16 | rdec32 =>
    obtain ⟨ht, -⟩ := h
    exact ⟨(congrArg State.params ht :), (congrArg State.cmd ht :)⟩

theorem exec_next_params_cmd {i : Instr} {s t : State} (h : exec i s = .next t) :
    t.params = s.params ∧ t.cmd = s.cmd := by
  have hends := exec_ends i s
  rw [h] at hends
  cases hends with
  | fail => exact ⟨rfl, rfl⟩
  | ok _ _ hf => exact hf.params_cmd

/-- A command word, legal or not, leaves the parameters and stands in CMD afterwards (R23, R70). -/
theorem issueCommand_next_params_cmd {w : Word} {s t : State} (h : issueCommand w s = .next t) :
    t.params = s.params ∧ t.cmd = w := by
  cases hd : decode w with
  | ok i =>
    rw [issueCommand_ok hd] at h
    simpa using exec_next_params_cmd h
  | error e =>
    rw [issueCommand_error hd] at h
    cases h
    simp

/-! ### PARAM through a step -/

theorem Plain.params_eq {s t : State} (h : Plain s t) : t.params = s.params := by
  cases h <;> rfl

theorem perform_next_params {a : Input} {s t : State} (h : perform a s = .next t) :
    t.params = s.params := by
  rcases perform_next h with ⟨_, _, hw⟩ | hp
  · exact (issueCommand_next_params_cmd hw).1
  · exact hp.params_eq

/-- Nothing writes the parameters (R7, R36). -/
theorem step_next_params {s t : State} (h : step s = .next t) : t.params = s.params := by
  cases hp : s.pending with
  | nil =>
    rw [step_nil hp] at h
    cases h
    rfl
  | cons a rest =>
    rw [step_cons hp] at h
    exact (perform_next_params h :)

theorem paramWord_congr {s t : State} (h : t.params = s.params) : t.paramWord = s.paramWord := by
  simp only [State.paramWord, h]

/-- PARAM as a number: its three fields side by side (R36). -/
theorem paramWord_toNat {s : State} (h : s.params.Legal) :
    s.paramWord.toNat = s.params.bufCap + s.params.payloadSkip * 65536 + 16777216 := by
  obtain ⟨-, hcap, hskip⟩ := h
  have hversion : Config.version.toNat = 1 := rfl
  simp only [State.paramWord, BitVec.toNat_or, BitVec.toNat_shiftLeft, BitVec.toNat_setWidth,
    BitVec.toNat_ofNat, hversion]
  rw [Nat.mod_eq_of_lt (show s.params.bufCap < 2 ^ 16 by omega),
    Nat.mod_eq_of_lt (show s.params.payloadSkip < 2 ^ 8 by omega),
    Nat.mod_eq_of_lt (show s.params.bufCap < 2 ^ 32 by omega),
    Nat.mod_eq_of_lt (show s.params.payloadSkip < 2 ^ 32 by omega),
    Nat.mod_eq_of_lt (show s.params.payloadSkip <<< 16 < 2 ^ 32 by rw [Nat.shiftLeft_eq]; omega),
    or_shift_eq_add _ _ 16 (by omega)]
  exact or_shift_eq_add _ 1 24 (by omega)

/-- Settles O12: the three fields add up to the word, and no step writes the parameters. -/
theorem paramIsConstant : Obligations.ParamIsConstant := by
  unfold Obligations.ParamIsConstant
  refine ⟨fun s hs => ?_, by decide, fun s t h => paramWord_congr (step_next_params h)⟩
  have hword : (readRegister s .param).toNat = _ := paramWord_toNat hs
  obtain ⟨-, hcap, hskip⟩ := hs
  omega

/-! ### Host writes to registers -/

/-- A 32-bit write at a register's offset is a write to that register (R22, R51). -/
theorem perform_write32_offset (r : Reg) (v : Word) (s : State) :
    perform (.write32 r.offset v) s = writeRegister r v s := by
  simp only [perform, hostWrite32, locate_offset]

/-- A register with an `n`-bit field at bit 0 reads the `n` low bits of the word written (R22, R38). -/
theorem toNat_setWidth_field {n : Nat} (hn : n ≤ 32) (v : Word) :
    ((v.setWidth n).setWidth 32).toNat = v.toNat % 2 ^ n := by
  rw [BitVec.toNat_setWidth_of_le hn, BitVec.toNat_setWidth]

/-- Settles O13: a command keeps the word in CMD; each other RW register stores its field alone. -/
theorem registerWritesKeepFieldBits : Obligations.RegisterWritesKeepFieldBits := by
  unfold Obligations.RegisterWritesKeepFieldBits
  intro s v
  have byteField := toNat_setWidth_field (n := 8) (by decide) v
  have halfField := toNat_setWidth_field (n := 16) (by decide) v
  refine ⟨fun t h => ?cmd, ?slave, ?fc, ?regAddr, ?regCount, ?ilen, ?plen⟩
  case cmd =>
    rw [perform_command] at h
    exact (issueCommand_next_params_cmd h).2
  case slave => exact ⟨_, perform_write32_offset .slave v s, rfl, byteField⟩
  case fc => exact ⟨_, perform_write32_offset .fc v s, rfl, byteField⟩
  case regAddr => exact ⟨_, perform_write32_offset .regAddr v s, rfl, halfField⟩
  case regCount => exact ⟨_, perform_write32_offset .regCount v s, rfl, halfField⟩
  case ilen => exact ⟨_, perform_write32_offset .ilen v s, rfl, halfField⟩
  case plen => exact ⟨_, perform_write32_offset .plen v s, rfl, halfField⟩

end Sys2Proof.Machine

/-! Which host accesses are refused, and when a command faults (20_memory.md R51, R55). -/

namespace Sys2Proof.Machine

/-! ### The address map in both directions -/

theorem locate_register_iff {p : Params} {off : Half} {r : Reg} :
    locate p off = .register r ↔ off = r.offset :=
  ⟨locate_register_inv, fun h => h ▸ locate_offset p r⟩

/-- The offsets that hold a byte of a buffer are those of its window (R50). -/
theorem exists_locate_byte_iff {p : Params} (hp : p.Legal) {b : Buf} {off : Half} :
    (∃ i, locate p off = .byte b i) ↔ InBuffer p b off := by
  refine ⟨fun ⟨i, h⟩ => ?_, fun ⟨hlo, hhi⟩ => ⟨off.toNat - b.base, ?_⟩⟩
  · obtain ⟨hoff, hi⟩ := locate_byte_inv h
    exact ⟨by omega, by omega⟩
  · exact locate_byte hp (by omega) (by omega)

/-! ### Refusals -/

/-- The outcome gives the access no meaning (R51). -/
def Refused (r : Result) : Prop := ∃ x, r = .refused x

@[simp] theorem refused_refused (x : Refusal) : Refused (.refused x) := ⟨x, rfl⟩

@[simp] theorem not_refused_next (s : State) : ¬ Refused (.next s) := fun ⟨_, h⟩ => nomatch h

@[simp] theorem not_refused_fault (f : Fault) : ¬ Refused (.fault f) := fun ⟨_, h⟩ => nomatch h

theorem not_refused_exec (i : Instr) (s : State) : ¬ Refused (exec i s) := by
  rintro ⟨x, hx⟩
  have hends := exec_ends i s
  rw [hx] at hends
  cases hends

/-- A word written to CMD is never refused, legal or not (R70). -/
theorem not_refused_issueCommand (w : Word) (s : State) : ¬ Refused (issueCommand w s) := by
  cases hd : decode w with
  | ok i => rw [issueCommand_ok hd]; exact not_refused_exec i _
  | error e => rw [issueCommand_error hd]; exact not_refused_next _

/-- A write to a register is refused exactly when the host may only read it (R39). -/
theorem refused_writeRegister_iff (r : Reg) (v : Word) (s : State) :
    Refused (writeRegister r v s) ↔ r.readOnly = true := by
  cases r with
  | cmd => simp [writeRegister, Reg.readOnly, not_refused_issueCommand]
  | slave | fc | regAddr | regCount | ilen | plen | status | diag | olen | rvalLo | rvalHi | rinfo
  | crcv | param => simp [writeRegister, Reg.readOnly]

/-- A write to a buffer byte is refused in OBUF only (R39). -/
theorem refused_writeBufferByte_iff (b : Buf) (i : Nat) (v : Byte) (s : State) :
    Refused (writeBufferByte b i v s) ↔ b = .obuf := by
  cases b <;> simp [writeBufferByte]

theorem refused_hostRead32_iff (off : Half) (s : State) :
    Refused (hostRead32 off s) ↔ ¬ ∃ r, locate s.params off = .register r := by
  cases h : locate s.params off <;> simp [hostRead32, h]

theorem refused_hostWrite32_iff (off : Half) (v : Word) (s : State) :
    Refused (hostWrite32 off v s) ↔
      ¬ ∃ r, locate s.params off = .register r ∧ r.readOnly = false := by
  cases h : locate s.params off <;> simp [hostWrite32, h, refused_writeRegister_iff]

theorem refused_hostRead8_iff (off : Half) (s : State) :
    Refused (hostRead8 off s) ↔ ¬ ∃ b i, locate s.params off = .byte b i := by
  cases h : locate s.params off <;> simp [hostRead8, h]

theorem refused_hostWrite8_iff (off : Half) (v : Byte) (s : State) :
    Refused (hostWrite8 off v s) ↔
      ¬ ((∃ i, locate s.params off = .byte .ibuf i) ∨
        ∃ i, locate s.params off = .byte .pbuf i) := by
  cases h : locate s.params off with
  | register | insideRegister | unmapped => simp [hostWrite8, h]
  | byte b i => cases b <;> simp [hostWrite8, h, refused_writeBufferByte_iff]

theorem refused_hostOther (off : Half) (s : State) : Refused (hostOther off s) := by
  cases h : locate s.params off <;> simp [hostOther, h]

/-- The two admitted kinds of access, and reset, are all that is not refused (R51). -/
theorem refused_perform_iff (a : Input) (s : State) (hs : s.params.Legal) :
    Refused (perform a s) ↔ ¬ Admitted s.params a := by
  cases a with
  | reset => simp [perform, Admitted]
  | read32 off => simp only [perform, Admitted, refused_hostRead32_iff, locate_register_iff]
  | write32 off v => simp only [perform, Admitted, refused_hostWrite32_iff, locate_register_iff]
  | read8 off => simp only [perform, Admitted, refused_hostRead8_iff, exists_locate_byte_iff hs]
  | write8 off v => simp only [perform, Admitted, refused_hostWrite8_iff, exists_locate_byte_iff hs]
  | readOther off _ | writeOther off _ => simp [perform, Admitted, refused_hostOther]

/-- Settles O14, by the kind of access: what stands at the offset decides it. -/
theorem exactlyTheInadmissibleAccessesAreRefused :
    Obligations.ExactlyTheInadmissibleAccessesAreRefused := by
  unfold Obligations.ExactlyTheInadmissibleAccessesAreRefused
  exact fun s a hs => refused_perform_iff a s hs

/-! ### Faults -/

/-- Past its length checks, the front half of a parsing command is a read of IBUF (R143). -/
theorem readResponse_eq_memRead {s : State} (i : Instr) (k : Response → Result)
    (h4 : 4 ≤ s.ilen.toNat) (hcap : s.ilen.toNat ≤ s.params.bufCap) :
    readResponse i s k =
      memRead i s .ibuf s.ilen.toNat fun raw => afterParse s k (parseResponse raw s.slave) := by
  rw [readResponse, if_neg (by omega), if_neg (by omega)]

/-- Past its length checks, the front half of a decode is a read of PBUF (R126, R127). -/
theorem readPayload_eq_memRead {s : State} {n : Nat} (i : Instr) (k : List Byte → Result)
    (hn : s.plen.toNat = n) (hcap : n ≤ s.params.bufCap) :
    readPayload i n s k = memRead i s .pbuf n k := by
  rw [readPayload, if_neg (by omega), if_neg (by omega)]

/-- A command that reads the first bytes of a buffer is the read of them and what it does next
(R52). -/
theorem exec_eq_memRead {i : Instr} {s : State} {b : Buf} {n : Nat} (hs : s.params.Legal)
    (hr : reads i s = some (b, n)) : ∃ k, exec i s = memRead i s b n k := by
  obtain ⟨h8, -, -⟩ := hs
  cases i with
  | build => cases hr
  | crc =>
    obtain ⟨hcap, ⟨⟩⟩ := Option.ite_none_right_eq_some.1 hr
    exact ⟨_, by rw [exec_crc, execCrc, if_neg (by omega)]⟩
  | crcApp =>
    obtain ⟨hcap, ⟨⟩⟩ := Option.ite_none_right_eq_some.1 hr
    exact ⟨_, by rw [exec_crcApp, execCrcApp, if_neg (by omega)]⟩
  | crcChk =>
    obtain ⟨⟨h2, hcap⟩, ⟨⟩⟩ := Option.ite_none_right_eq_some.1 hr
    exact ⟨_, by rw [exec_crcChk, execCrcChk, if_neg (by omega), if_neg (by omega)]⟩
  | swap =>
    obtain ⟨⟨hcap, heven⟩, ⟨⟩⟩ := Option.ite_none_right_eq_some.1 hr
    exact ⟨_, by
      rw [exec_swap, execSwap, if_neg (by omega), if_neg (by rw [getLsbD_zero_iff]; omega)]⟩
  | parse =>
    obtain ⟨⟨h4, hcap⟩, ⟨⟩⟩ := Option.ite_none_right_eq_some.1 hr
    exact ⟨_, readResponse_eq_memRead _ _ h4 hcap⟩
  | rdec32 d sg bo =>
    obtain ⟨⟨h4, hcap⟩, ⟨⟩⟩ := Option.ite_none_right_eq_some.1 hr
    exact ⟨_, readResponse_eq_memRead _ _ h4 hcap⟩
  | rdec16 d sg bo =>
    obtain ⟨⟨hbo, h4, hcap⟩, ⟨⟩⟩ := Option.ite_none_right_eq_some.1 hr
    exact ⟨_, by
      rw [exec_rdec16, execRdec16, if_neg (by simp [hbo]), readResponse_eq_memRead _ _ h4 hcap]⟩
  | dec16 d sg bo =>
    obtain ⟨⟨hbo, hlen⟩, ⟨⟩⟩ := Option.ite_none_right_eq_some.1 hr
    exact ⟨_, by
      rw [exec_dec16, execDec16, if_neg (by simp [hbo]),
        readPayload_eq_memRead _ _ hlen (by omega)]⟩
  | dec32 d sg bo =>
    obtain ⟨hlen, ⟨⟩⟩ := Option.ite_none_right_eq_some.1 hr
    exact ⟨_, readPayload_eq_memRead _ _ hlen (by omega)⟩

/-- A fault names the command and an unwritten byte that it reads (R55). -/
theorem exec_fault {i : Instr} {s : State} {f : Fault} (hs : s.params.Legal)
    (h : exec i s = .fault f) :
    ∃ b n j, reads i s = some (b, n) ∧ j < n ∧ f = .unwritten i b j ∧
      Memory.read (s.buf b) j = none := by
  have hends := exec_ends i s
  rw [h] at hends
  cases hends with
  | fault b n j hr hj hn => exact ⟨b, n, j, hr hs, hj, rfl, hn⟩

/-- A read that meets an unwritten byte faults (R55). -/
theorem memRead_fault {s : State} {b : Buf} {n j : Nat} (c : Instr) (k : List Byte → Result)
    (hj : j < n) (hn : Memory.read (s.buf b) j = none) :
    ∃ m, memRead c s b n k = .fault (.unwritten c b m) := by
  rcases memRead_cases c s b n k with ⟨hw, -⟩ | ⟨m, -, -, hm⟩
  · simpa [hn] using hw j hj
  · exact ⟨m, hm⟩

/-- Settles O31: a fault is one of the ends of a command, and a command that reads is a `MemRead`. -/
theorem commandsFaultExactlyOnUnwrittenInput :
    Obligations.CommandsFaultExactlyOnUnwrittenInput := by
  unfold Obligations.CommandsFaultExactlyOnUnwrittenInput
  refine fun i s hs => ⟨fun f => exec_fault hs, fun b n j hr hj hn => ?_⟩
  obtain ⟨k, hk⟩ := exec_eq_memRead hs hr
  rw [hk]
  exact memRead_fault i k hj hn

end Sys2Proof.Machine

/-! The decoder and the opcode map (30_encoding.md R70 to R80): the words of each command, and its
operands as fields of its word. -/

namespace Sys2Proof

/-! ### The words that decode to a command -/

/-- How many low bits a word of the command may use: OP alone (R77), all fields but the high bit of
BO (R80), or all fields (R71). -/
def Instr.wordBits : Instr → Nat
  | .crc | .crcApp | .crcChk | .build | .parse | .swap => 8
  | .dec16 .. | .rdec16 .. => 18
  | .dec32 .. | .rdec32 .. => 19

/-- The operands of the command, if it has any, stand in the word's fields (R73 to R75). -/
def Instr.OperandsIn (w : Word) : Instr → Prop
  | .crc | .crcApp | .crcChk | .build | .parse | .swap => True
  | .dec16 d sg bo | .dec32 d sg bo | .rdec16 d sg bo | .rdec32 d sg bo =>
    d = decField w ∧ sg = .ofBits (sgnField w) ∧ bo = .ofBits (boField w)

/-- The word is the command's: its OP, its operands, and no bit set beyond the ones it uses. -/
structure IsWordOf (w : Word) (i : Instr) : Prop where
  lt : w.toNat < 2 ^ i.wordBits
  op : opField w = i.opcode
  operands : i.OperandsIn w

theorem Instr.wordBits_bounds (i : Instr) : 8 ≤ i.wordBits ∧ i.wordBits ≤ 19 := by
  cases i <;> simp [wordBits]

/-- BO is a swapping order exactly when its high bit is set (R75). -/
theorem ByteOrder.swaps_ofBits :
    ∀ b : BitVec 2, (ByteOrder.ofBits b).swaps = decide (2 ≤ b.toNat) := by decide

/-- RSV clear: no bit at or above 19 (R76). -/
theorem rsvField_eq_zero_iff {w : Word} : rsvField w = 0#13 ↔ w.toNat < 2 ^ 19 := by
  rw [← BitVec.toNat_inj, rsvField_toNat, BitVec.toNat_ofNat]
  omega

/-- RSV and the operand bits clear: OP alone (R77). -/
theorem operandBits_eq_zero_iff {w : Word} (h : w.toNat < 2 ^ 19) :
    operandBits w = 0#11 ↔ w.toNat < 2 ^ 8 := by
  rw [← BitVec.toNat_inj, operandBits_toNat, BitVec.toNat_ofNat]
  omega

/-- RSV clear and a plain byte order: no bit at or above 18 (R80). -/
theorem swaps_boField_eq_false_iff {w : Word} (h : w.toNat < 2 ^ 19) :
    (ByteOrder.ofBits (boField w)).swaps = false ↔ w.toNat < 2 ^ 18 := by
  rw [ByteOrder.swaps_ofBits, boField_toNat, decide_eq_false_iff_not]
  omega

theorem decodePlain_eq_ok_iff {w : Word} (h : w.toNat < 2 ^ 19) {i j : Instr} :
    decodePlain w i = .ok j ↔ w.toNat < 2 ^ 8 ∧ i = j := by
  rw [← operandBits_eq_zero_iff h]
  by_cases h0 : operandBits w = 0#11 <;> simp [decodePlain, h0]

theorem decodeNarrow_eq_ok_iff {w : Word} (h : w.toNat < 2 ^ 19)
    {mk : Byte → Signedness → ByteOrder → Instr} {i : Instr} :
    decodeNarrow w mk = .ok i ↔ w.toNat < 2 ^ 18 ∧ decodeOperands w mk = i := by
  rw [← swaps_boField_eq_false_iff h]
  cases hs : (ByteOrder.ofBits (boField w)).swaps <;> simp [decodeNarrow, hs]

/-- A word that decodes is a word of the command it decodes to, by the OP it has (R85). -/
theorem isWordOf_of_decode {w : Word} {i : Instr} (h : decode w = .ok i) : IsWordOf w i := by
  unfold decode at h
  split at h
  case isTrue => cases h
  case isFalse hr =>
    have hlt := rsvField_eq_zero_iff.1 (not_not.1 hr)
    split at h
    case h_1 hop | h_2 hop | h_3 hop | h_4 hop | h_5 hop | h_6 hop =>
      obtain ⟨h8, rfl⟩ := (decodePlain_eq_ok_iff hlt).1 h
      exact ⟨h8, BitVec.eq_of_toNat_eq hop, trivial⟩
    case h_7 hop | h_9 hop =>
      obtain ⟨h18, rfl⟩ := (decodeNarrow_eq_ok_iff hlt).1 h
      exact ⟨h18, BitVec.eq_of_toNat_eq hop, rfl, rfl, rfl⟩
    case h_8 hop | h_10 hop =>
      cases h
      exact ⟨hlt, BitVec.eq_of_toNat_eq hop, rfl, rfl, rfl⟩
    case h_11 => cases h

/-- A word of a command passes the decoder's checks (R85). -/
theorem decode_of_isWordOf {w : Word} {i : Instr} (h : IsWordOf w i) : decode w = .ok i := by
  obtain ⟨hlt, hop, hargs⟩ := h
  have hlt19 : w.toNat < 2 ^ 19 :=
    hlt.trans_le (Nat.pow_le_pow_right (by decide) i.wordBits_bounds.2)
  rw [decode, if_neg fun hne => hne (rsvField_eq_zero_iff.2 hlt19), hop]
  cases i with
  | crc | crcApp | crcChk | build | parse | swap =>
    exact (decodePlain_eq_ok_iff hlt19).2 ⟨hlt, rfl⟩
  | dec16 | rdec16 =>
    obtain ⟨rfl, rfl, rfl⟩ := hargs
    exact (decodeNarrow_eq_ok_iff hlt19).2 ⟨hlt, rfl⟩
  | dec32 | rdec32 =>
    obtain ⟨rfl, rfl, rfl⟩ := hargs
    rfl

theorem decode_eq_ok_iff {w : Word} {i : Instr} : decode w = .ok i ↔ IsWordOf w i :=
  ⟨isWordOf_of_decode, decode_of_isWordOf⟩

theorem ByteOrder.eq_big_or_little {bo : ByteOrder} (h : bo.swaps = false) :
    bo = .big ∨ bo = .little := by
  cases bo with
  | big => exact .inl rfl
  | little => exact .inr rfl
  | bigSwap | littleSwap => cases h

/-- Only commands with an encoding are decoded (R80). -/
theorem wf_of_decode {w : Word} {i : Instr} (h : decode w = .ok i) : i.wf = true := by
  obtain ⟨hlt, -, hargs⟩ := isWordOf_of_decode h
  cases i with
  | crc | crcApp | crcChk | build | parse | swap | dec32 | rdec32 => rfl
  | dec16 | rdec16 =>
    obtain ⟨-, -, rfl⟩ := hargs
    have hlt18 : w.toNat < 2 ^ 18 := hlt
    simp [Instr.wf, (swaps_boField_eq_false_iff (by omega)).2 hlt18]

/-! ### The rows of the opcode map -/

/-- The mask covers OP and every bit from `k` on, and no other bit. -/
def MasksFrom (k : Nat) (mask : Word) : Prop :=
  ∀ j, j < 32 → mask.getLsbD j = decide (j < 8 ∨ k ≤ j)

theorem masksFrom_plain : MasksFrom 8 0xFFFFFFFF := by unfold MasksFrom; decide

theorem masksFrom_narrow : MasksFrom 18 0xFFFC00FF := by unfold MasksFrom; decide

theorem masksFrom_wide : MasksFrom 19 0xFFF800FF := by unfold MasksFrom; decide

/-- A word is below `2 ^ k` exactly when its bits from `k` on are clear. -/
theorem toNat_lt_two_pow_iff {w : Word} {k : Nat} :
    w.toNat < 2 ^ k ↔ ∀ j, j < 32 → k ≤ j → w.getLsbD j = false := by
  constructor
  · exact fun h j _ hkj =>
      Nat.testBit_lt_two_pow (h.trans_le (Nat.pow_le_pow_right (by decide) hkj))
  · refine fun h => Nat.lt_pow_two_of_testBit _ fun j hkj => ?_
    by_cases hj : j < 32
    · exact h j hj hkj
    · exact BitVec.getLsbD_of_ge w j (by omega)

/-- Under such a mask a word matches a bare OP when it has that OP and no bit from `k` on (R78). -/
theorem and_mask_eq_iff {k : Nat} {mask : Word} (hk : 8 ≤ k) (hm : MasksFrom k mask) (w : Word)
    (op : Byte) : w &&& mask = op.setWidth 32 ↔ w.toNat < 2 ^ k ∧ opField w = op := by
  rw [toNat_lt_two_pow_iff]
  constructor
  · intro h
    have hbit (j : Nat) (hj : j < 32) (hjm : j < 8 ∨ k ≤ j) : w.getLsbD j = op.getLsbD j := by
      have := congrArg (·.getLsbD j) h
      simpa only [BitVec.getLsbD_and, BitVec.getLsbD_setWidth, hm j hj, hjm, hj, decide_true,
        Bool.and_true, Bool.true_and] using this
    constructor
    · exact fun j hj hkj => (hbit j hj (.inr hkj)).trans (BitVec.getLsbD_of_ge _ _ (by omega))
    · apply BitVec.eq_of_getLsbD_eq
      intro j hj
      simpa [opField, hj] using hbit j (by omega) (.inl hj)
  · rintro ⟨hw, rfl⟩
    apply BitVec.eq_of_getLsbD_eq
    intro j hj
    rw [BitVec.getLsbD_and, hm j hj]
    by_cases h8 : j < 8
    · simp [opField, hj, h8]
    by_cases hkj : k ≤ j
    · simp [opField, h8, hw j hj hkj]
    · simp [opField, h8, hkj]

/-- A word that carries a command's operands selects the command's row exactly when it decodes to it
(R78). -/
theorem selectsRow_iff {w mask : Word} {i : Instr} (hm : MasksFrom i.wordBits mask)
    (hargs : i.OperandsIn w) : w &&& mask = i.opcode.setWidth 32 ↔ decode w = .ok i := by
  rw [and_mask_eq_iff i.wordBits_bounds.1 hm, decode_eq_ok_iff]
  exact ⟨fun ⟨hlt, hop⟩ => ⟨hlt, hop, hargs⟩, fun ⟨hlt, hop, _⟩ => ⟨hlt, hop⟩⟩

/-- A word selects the row of a command with operands exactly when it decodes to it with some
operands, which are then the word's own. -/
theorem selectsOperandRow_iff {w mask : Word} {mk : Byte → Signedness → ByteOrder → Instr}
    (hm : MasksFrom (decodeOperands w mk).wordBits mask)
    (hargs : ∀ d sg bo, (mk d sg bo).OperandsIn w ↔
      d = decField w ∧ sg = .ofBits (sgnField w) ∧ bo = .ofBits (boField w)) :
    w &&& mask = (decodeOperands w mk).opcode.setWidth 32 ↔
      ∃ d sg bo, decode w = .ok (mk d sg bo) := by
  rw [selectsRow_iff hm ((hargs _ _ _).2 ⟨rfl, rfl, rfl⟩)]
  refine ⟨fun h => ⟨_, _, _, h⟩, fun ⟨d, sg, bo, h⟩ => ?_⟩
  obtain ⟨rfl, rfl, rfl⟩ := (hargs d sg bo).1 (isWordOf_of_decode h).operands
  exact h

/-- Settles O6, row by row: the masks are those of the bits that a command's words may use. -/
theorem decodeAgreesWithTheOpcodeMap : Obligations.DecodeAgreesWithTheOpcodeMap := by
  unfold Obligations.DecodeAgreesWithTheOpcodeMap
  intro w
  refine ⟨?crc, ?crcApp, ?crcChk, ?build, ?parse, ?swap, ?dec16, ?dec32, ?rdec16, ?rdec32⟩
  case crc => exact selectsRow_iff (i := .crc) masksFrom_plain trivial
  case crcApp => exact selectsRow_iff (i := .crcApp) masksFrom_plain trivial
  case crcChk => exact selectsRow_iff (i := .crcChk) masksFrom_plain trivial
  case build => exact selectsRow_iff (i := .build) masksFrom_plain trivial
  case parse => exact selectsRow_iff (i := .parse) masksFrom_plain trivial
  case swap => exact selectsRow_iff (i := .swap) masksFrom_plain trivial
  case dec16 => exact selectsOperandRow_iff (mk := .dec16) masksFrom_narrow fun _ _ _ => .rfl
  case dec32 => exact selectsOperandRow_iff (mk := .dec32) masksFrom_wide fun _ _ _ => .rfl
  case rdec16 => exact selectsOperandRow_iff (mk := .rdec16) masksFrom_narrow fun _ _ _ => .rfl
  case rdec32 => exact selectsOperandRow_iff (mk := .rdec32) masksFrom_wide fun _ _ _ => .rfl

end Sys2Proof

namespace Sys2Proof.Machine

/-! ### Operands as numbers -/

theorem sgnNumber_ofBits : ∀ b : BitVec 1, sgnNumber (.ofBits b) = b.toNat := by decide

theorem boNumber_ofBits : ∀ b : BitVec 2, boNumber (.ofBits b) = b.toNat := by decide

/-- The operand fields of a word as numbers (R73 to R75). -/
theorem operand_numbers {w : Word} {d : Byte} {sg : Signedness} {bo : ByteOrder}
    (h : d = decField w ∧ sg = .ofBits (sgnField w) ∧ bo = .ofBits (boField w)) :
    d.toNat = w.toNat / 256 % 256 ∧ sgnNumber sg = w.toNat / 65536 % 2 ∧
      boNumber bo = w.toNat / 131072 % 4 := by
  obtain ⟨rfl, rfl, rfl⟩ := h
  exact ⟨decField_toNat w, (sgnNumber_ofBits _).trans (sgnField_toNat w),
    (boNumber_ofBits _).trans (boField_toNat w)⟩

/-- Settles O7: a word that decodes is a word of its command, so the operands are its fields. -/
theorem operandsAreTheWordsFields : Obligations.OperandsAreTheWordsFields := by
  unfold Obligations.OperandsAreTheWordsFields
  intro w d sg bo h
  have hfields : d = decField w ∧ sg = .ofBits (sgnField w) ∧ bo = .ofBits (boField w) := by
    rcases h with h | h | h | h <;> exact (isWordOf_of_decode h).operands
  obtain ⟨hd, hsg, hbo⟩ := operand_numbers hfields
  refine ⟨hd, hsg, hbo, fun h16 => ByteOrder.eq_big_or_little ?_⟩
  have hwf : (!bo.swaps) = true := by
    rcases h16 with h | h <;> exact wf_of_decode h
  simpa using hwf

/-- Settles O1: a write to CMD issues the word, by what it decodes to. -/
theorem commandWriteRunsTheDecodedCommand : Obligations.CommandWriteRunsTheDecodedCommand := by
  unfold Obligations.CommandWriteRunsTheDecodedCommand
  refine fun s w => ⟨fun i h => ?_, fun e h => ?_⟩
  · rw [perform_command]
    exact issueCommand_ok h s
  · rw [perform_command]
    exact issueCommand_error h s

end Sys2Proof.Machine

/-! The CRC commands (40_crc.md R105 to R107): the words of the commands without operands, an output
that ends in a CRC, and what CRC, CRCAPP and CRCCHK do past their length checks. -/

namespace Sys2Proof

/-! ### Commands without operands -/

/-- A legal word whose OP is at most 6 is nothing but that OP (R77). -/
theorem toNat_lt_of_decode_plain {w : Word} {i : Instr} (h : decode w = .ok i)
    (hop : (opField w).toNat ≤ 6) : w.toNat < 256 := by
  obtain ⟨hlt, hi, -⟩ := isWordOf_of_decode h
  rw [hi] at hop
  cases i with
  | crc | crcApp | crcChk | build | parse | swap => exact hlt
  | dec16 | dec32 | rdec16 | rdec32 => simp [Instr.opcode] at hop

end Sys2Proof

namespace Sys2Proof.Machine

/-- A legal word whose OP is at most 6 is the only legal word with its OP (R77, R78). -/
theorem soleWord_of_decode_plain {w : Word} {i : Instr} (h : decode w = .ok i)
    (hop : (opField w).toNat ≤ 6) : SoleWord w i := by
  refine ⟨h, fun v hv hne => ?_⟩
  cases hd : decode v with
  | error e => exact ⟨e, rfl⟩
  | ok j =>
    have hw := toNat_lt_of_decode_plain h hop
    have hlt := toNat_lt_of_decode_plain hd (hv ▸ hop)
    have hmod := congrArg BitVec.toNat hv
    rw [opField_toNat, opField_toNat] at hmod
    exact absurd (BitVec.eq_of_toNat_eq (by omega)) hne

/-! ### An output that ends in its CRC -/

/-- `t` is `s` after a successful command that writes the bytes `body` and then the CRC `c` to OBUF
(R105, R106, 42_frame.md R141). -/
structure OutputWithCrc (s t : State) (body : List Byte) (c : Half) : Prop where
  frame :
    t =
      { s with
        obuf := t.obuf, olen := half (body.length + 2), crcv := c, err := 0, expv := 0,
        rcvv := 0 }
  bodyWritten : ∀ j, j < body.length → Memory.read t.obuf j = body[j]?
  crcLow : Memory.read t.obuf body.length = some (t.crcv.extractLsb' 0 8)
  crcHigh : Memory.read t.obuf (body.length + 1) = some (t.crcv.extractLsb' 8 8)
  beyond : ∀ a, body.length + 2 ≤ a → Memory.read t.obuf a = Memory.read s.obuf a

/-- The end of the commands that write a CRC to OBUF (R89, R105, R106, 42_frame.md R141). -/
theorem succeed_outputWithCrc (s : State) (body : List Byte) (c : Half) :
    ∃ t, succeed ((s.putOutput (body ++ toWire c)).putCrc c) = .next t ∧
      OutputWithCrc s t body c := by
  have hlen : (body ++ toWire c).length = body.length + 2 := by simp
  have hin (j : Nat) (hj : j < body.length + 2) :
      Memory.read (Memory.writeBytes s.obuf 0 (body ++ toWire c)) j = (body ++ toWire c)[j]? :=
    Memory.read_writeBytes_lt _ _ (by omega)
  refine ⟨_, succeed_eq _, ?frame, fun j hj => ?body, ?low, ?high, fun a ha => ?beyond⟩
  case frame => rw [← hlen]; rfl
  case body => exact (hin j (by omega)).trans (List.getElem?_append_left hj)
  case low => exact (hin _ (by omega)).trans (by simp [toWire])
  case high => exact (hin _ (by omega)).trans (by simp [toWire])
  case beyond => exact Memory.read_writeBytes_ge _ _ (by omega)

/-! ### The commands past their length checks -/

/-- CRC of written bytes (R105). -/
theorem exec_crc_written {s : State} (hcap : s.ilen.toNat ≤ s.params.bufCap)
    (hw : Written s.ibuf s.ilen.toNat) :
    ∃ t, exec .crc s = .next t ∧
      OutputWithCrc s t [] (crc16 (prefixOf s.ibuf s.ilen.toNat)) := by
  rw [exec_crc, execCrc, if_neg (by omega), memRead_written (b := .ibuf) hw]
  exact succeed_outputWithCrc s [] _

/-- CRCAPP of written bytes (R106). -/
theorem exec_crcApp_written {s : State} (hcap : s.ilen.toNat + 2 ≤ s.params.bufCap)
    (hw : Written s.ibuf s.ilen.toNat) :
    ∃ t, exec .crcApp s = .next t ∧
      OutputWithCrc s t (prefixOf s.ibuf s.ilen.toNat)
        (crc16 (prefixOf s.ibuf s.ilen.toNat)) := by
  rw [exec_crcApp, execCrcApp, if_neg (by omega), memRead_written (b := .ibuf) hw]
  exact succeed_outputWithCrc s _ _

/-- CRCCHK of written bytes: the two CRCs decide (R107). -/
theorem exec_crcChk_written {s : State} (hcap : s.ilen.toNat ≤ s.params.bufCap)
    (h2 : 2 ≤ s.ilen.toNat) (hw : Written s.ibuf s.ilen.toNat) :
    exec .crcChk s =
      if computedCrc s ≠ receivedCrc s then
        raise s .checksumMismatch (computedCrc s) (receivedCrc s)
      else succeed (s.putCrc (computedCrc s)) := by
  rw [exec_crcChk, execCrcChk, if_neg (by omega), if_neg (by omega),
    memRead_written (b := .ibuf) hw, State.buf_ibuf, trailingCrc_prefixOf _ h2, ← receivedCrc_eq]
  rfl

/-! ### The three obligations -/

/-- Settles O21: past the capacity check CRC's output is its CRC alone. -/
theorem crcCommand : Obligations.CrcCommand := by
  unfold Obligations.CrcCommand
  refine ⟨soleWord_of_decode_plain (by decide) (by decide), fun s => ⟨fun hcap => ?_, ?_⟩⟩
  · rw [exec_crc, execCrc, if_pos hcap]
    exact raise_eq ..
  · intro hcap hw
    obtain ⟨t, ht, hout⟩ := exec_crc_written hcap hw
    exact ⟨t, ht, hout.frame, hout.crcLow, hout.crcHigh, hout.beyond⟩

/-- Settles O22: past the capacity check CRCAPP's output is its input and then its CRC. -/
theorem crcAppendCommand : Obligations.CrcAppendCommand := by
  unfold Obligations.CrcAppendCommand
  refine ⟨soleWord_of_decode_plain (by decide) (by decide), fun s hs => ⟨fun hcap => ?_, ?_⟩⟩
  · obtain ⟨h8, -, -⟩ := hs
    rw [exec_crcApp, execCrcApp, if_pos (by omega)]
    exact raise_eq ..
  · intro hcap hw
    obtain ⟨t, ht, hout⟩ := exec_crcApp_written hcap hw
    obtain ⟨hframe, hbody, hlow, hhigh, hbeyond⟩ := hout
    rw [length_prefixOf] at hframe hbody hlow hhigh hbeyond
    refine ⟨t, ht, hframe, fun j hj => ?_, hlow, hhigh, hbeyond⟩
    rw [hbody j hj, getElem?_prefixOf _ hj, read_of_isSome (hw j hj)]

/-- Settles O23: the two length checks in order, then the comparison of the CRCs. -/
theorem crcCheckCommand : Obligations.CrcCheckCommand := by
  unfold Obligations.CrcCheckCommand
  refine ⟨soleWord_of_decode_plain (by decide) (by decide),
    fun s => ⟨fun hcap => ?capacity, fun hcap hshort => ?short, fun hcap h2 hw => ?written⟩⟩
  case capacity =>
    rw [exec_crcChk, execCrcChk, if_pos hcap]
    exact raise_eq ..
  case short =>
    rw [exec_crcChk, execCrcChk, if_neg (by omega), if_pos hshort]
    exact raise_eq ..
  case written =>
    rw [exec_crcChk_written hcap h2 hw]
    refine ⟨fun hne => ?_, fun heq => ?_⟩
    · rw [if_pos hne]
      exact raise_eq ..
    · rw [if_neg (not_not.2 heq)]
      exact succeed_eq _

end Sys2Proof.Machine

/-! The numeric codec (41_codec.md R120 to R127): the words of the commands with operands, what SWAP
writes, and what the four decodes leave in the result registers. -/

namespace Sys2Proof

/-! ### The words of the commands -/

/-- A command with an encoding is decoded from its word (R83, R85). -/
theorem decode_encode {i : Instr} (h : i.wf = true) : decode (encode i) = .ok i := by
  have hlt : (encode i).toNat < 2 ^ 19 := rsvField_eq_zero_iff.1 (rsvField_encode i)
  have hargs (op d : Byte) (sg : Signedness) (bo : ByteOrder) :
      d = decField (encodeFields op d sg bo) ∧
        sg = .ofBits (sgnField (encodeFields op d sg bo)) ∧
        bo = .ofBits (boField (encodeFields op d sg bo)) := by
    simp only [decField_encodeFields, sgnField_encodeFields, boField_encodeFields,
      Signedness.ofBits_bits, ByteOrder.ofBits_bits, and_self]
  cases i with
  | crc | crcApp | crcChk | build | parse | swap => rfl
  | dec32 d sg bo | rdec32 d sg bo =>
    exact decode_of_isWordOf ⟨hlt, opField_encode _, hargs _ d sg bo⟩
  | dec16 d sg bo | rdec16 d sg bo =>
    have hbo : bo.swaps = false := by simpa [Instr.wf] using h
    rw [(hargs _ d sg bo).2.2] at hbo
    exact decode_of_isWordOf
      ⟨(swaps_boField_eq_false_iff hlt).1 hbo, opField_encode _, hargs _ d sg bo⟩

/-- DEC16 has no word with a swapping byte order (R80). -/
theorem decode_encode_dec16_of_swaps (d : Byte) (sg : Signedness) {bo : ByteOrder}
    (h : bo.swaps = true) : decode (encode (.dec16 d sg bo)) = .error .byteOrder := by
  have hbo : (ByteOrder.ofBits (boField (encode (.dec16 d sg bo)))).swaps = true := by
    rwa [encode, boField_encodeFields, ByteOrder.ofBits_bits]
  rw [decode, if_neg (not_not.2 (rsvField_encode _)), opField_encode]
  exact if_pos hbo

/-- A word with a bit of RSV set is illegal (R76). -/
theorem decode_eq_reservedBits {w : Word} (h : 524288 ≤ w.toNat) :
    decode w = .error .reservedBits :=
  if_pos fun hr => absurd (rsvField_eq_zero_iff.1 hr) (by omega)

end Sys2Proof

namespace Sys2Proof.Machine

theorem toNat_signedness_bits (sg : Signedness) : sg.bits.toNat = sgnNumber sg := by
  cases sg <;> rfl

theorem toNat_byteOrder_bits (bo : ByteOrder) : bo.bits.toNat = boNumber bo := by
  cases bo <;> rfl

/-- The fields of a word put together as a sum (R71, R83). -/
theorem operandWord_eq_encodeFields (op d : Byte) (sg : Signedness) (bo : ByteOrder) :
    operandWord op.toNat d sg bo = encodeFields op d sg bo := by
  have hop := opField_toNat (encodeFields op d sg bo)
  have hdec := decField_toNat (encodeFields op d sg bo)
  have hsgn := sgnField_toNat (encodeFields op d sg bo)
  have hbo := boField_toNat (encodeFields op d sg bo)
  rw [(Laws.OpcodeField.encodeFields_op op d sg bo).1] at hop
  rw [decField_encodeFields] at hdec
  rw [sgnField_encodeFields, toNat_signedness_bits] at hsgn
  rw [boField_encodeFields, toNat_byteOrder_bits] at hbo
  have hlt := rsvField_eq_zero_iff.1 (Laws.OpcodeField.encodeFields_op op d sg bo).2
  apply BitVec.eq_of_toNat_eq
  rw [operandWord, BitVec.toNat_ofNat]
  omega

/-! ### The numbers that decodes hold -/

/-- The 16-bit decode of two bytes of a buffer (R122, R124). -/
theorem signedValue_unpack16_eq_value16At {l : List Byte} {m : Memory} {k : Nat}
    (hl : ∀ j, j < 2 → byteAt l j = byteOf m (k + j)) (sg : Signedness) {bo : ByteOrder}
    (hbo : bo.swaps = false) :
    signedValue (unpack16 l (endianOf bo)) sg = value16At m k sg bo := by
  rw [signedValue_unpack16 sg hbo, hl 0 (by decide), hl 1 (by decide)]
  rfl

/-- The 32-bit decode of four bytes of a buffer (R123, R124). -/
theorem signedValue_unpack32_eq_value32At {l : List Byte} {m : Memory} {k : Nat}
    (hlen : l.length = 4) (hl : ∀ j, j < 4 → byteAt l j = byteOf m (k + j)) (sg : Signedness)
    (bo : ByteOrder) : signedValue (unpack32 l bo) sg = value32At m k sg bo := by
  obtain ⟨a, b, c, d, rfl⟩ := List.length_eq_four.1 hlen
  have ha : a = byteOf m k := hl 0 (by decide)
  have hb : b = byteOf m (k + 1) := hl 1 (by decide)
  have hc : c = byteOf m (k + 2) := hl 2 (by decide)
  have hd : d = byteOf m (k + 3) := hl 3 (by decide)
  rw [signedValue_unpack32, ha, hb, hc, hd, value32At]

theorem byteAt_prefixOf_zero_add {m : Memory} {n j : Nat} (h : j < n) :
    byteAt (prefixOf m n) j = byteOf m (0 + j) := by
  rw [byteAt_prefixOf m h, Nat.zero_add]

theorem denotes_bounds {width p : Nat} (sg : Signedness) (hp : p < 2 ^ width) :
    -2 ^ width ≤ denotes width sg p ∧ denotes width sg p < 2 ^ width := by
  have hp' : (p : Int) < 2 ^ width := by exact_mod_cast hp
  cases sg with
  | unsigned => simp only [denotes]; omega
  | signed => simp only [denotes]; split <;> omega

theorem number16_lt (bo : ByteOrder) (b0 b1 : Byte) : number16 bo b0 b1 < 2 ^ 16 := by
  have h0 := b0.isLt
  have h1 := b1.isLt
  cases bo <;> simp only [number16] <;> omega

theorem fourBytes_lt (a b c d : Byte) : fourBytes a b c d < 2 ^ 32 :=
  quad_toNat a b c d ▸ (quad a b c d).isLt

theorem number32_lt (bo : ByteOrder) (b0 b1 b2 b3 : Byte) : number32 bo b0 b1 b2 b3 < 2 ^ 32 := by
  cases bo <;> exact fourBytes_lt _ _ _ _

/-- The integers that RVAL, 64 bits wide, holds exactly (R33). -/
def FitsRval (v : Int) : Prop := -2 ^ 63 ≤ v ∧ v < 2 ^ 63

theorem FitsRval.toInt_ofInt {v : Int} (h : FitsRval v) : (BitVec.ofInt 64 v).toInt = v :=
  BitVec.toInt_ofInt_eq_self (by decide) h.1 h.2

theorem fitsRval_value16At (m : Memory) (k : Nat) (sg : Signedness) (bo : ByteOrder) :
    FitsRval (value16At m k sg bo) := by
  obtain ⟨hlo, hhi⟩ := denotes_bounds sg (number16_lt bo (byteOf m k) (byteOf m (k + 1)))
  exact ⟨le_trans (by decide) hlo, lt_trans hhi (by decide)⟩

theorem fitsRval_value32At (m : Memory) (k : Nat) (sg : Signedness) (bo : ByteOrder) :
    FitsRval (value32At m k sg bo) := by
  obtain ⟨hlo, hhi⟩ := denotes_bounds sg
    (number32_lt bo (byteOf m k) (byteOf m (k + 1)) (byteOf m (k + 2)) (byteOf m (k + 3)))
  exact ⟨le_trans (by decide) hlo, lt_trans hhi (by decide)⟩

/-! ### SWAP -/

/-- SWAP of written bytes (R121). -/
theorem exec_swap_written {s : State} (hcap : s.ilen.toNat ≤ s.params.bufCap)
    (heven : s.ilen.toNat % 2 = 0) (hw : Written s.ibuf s.ilen.toNat) :
    exec .swap s = succeed (s.putOutput (swapPairs (prefixOf s.ibuf s.ilen.toNat))) := by
  rw [exec_swap, execSwap, if_neg (by omega), if_neg (by rw [getLsbD_zero_iff]; omega),
    memRead_written (b := .ibuf) hw, State.buf_ibuf]

/-- The pair swap of written bytes, byte by byte (R120). -/
theorem getElem?_swapPairs_prefixOf {m : Memory} {n k : Nat} (hw : Written m n)
    (heven : n % 2 = 0) (hk : 2 * k + 1 < n) :
    (swapPairs (prefixOf m n))[2 * k]? = Memory.read m (2 * k + 1) ∧
      (swapPairs (prefixOf m n))[2 * k + 1]? = Memory.read m (2 * k) := by
  obtain ⟨hlo, hhi⟩ := getElem?_swapPairs (prefixOf m n) (by simpa) (k := k) (by simpa)
  have hbyte (j : Nat) (hj : j < n) : (prefixOf m n)[j]? = Memory.read m j := by
    rw [getElem?_prefixOf m hj, read_of_isSome (hw j hj)]
  exact ⟨hlo.trans (hbyte _ hk), hhi.trans (hbyte _ (by omega))⟩

/-- Settles O26: past its two length checks SWAP writes the pair swap of its input to OBUF. -/
theorem swapCommand : Obligations.SwapCommand := by
  unfold Obligations.SwapCommand
  refine ⟨soleWord_of_decode_plain (by decide) (by decide),
    fun s => ⟨fun hcap => ?capacity, fun hcap hodd => ?odd, fun hcap heven hw => ?written⟩⟩
  case capacity =>
    rw [exec_swap, execSwap, if_pos hcap]
    exact raise_eq ..
  case odd =>
    rw [exec_swap, execSwap, if_neg (by omega), if_pos ((getLsbD_zero_iff _).2 hodd)]
    exact raise_eq ..
  case written =>
    have hlen : (swapPairs (prefixOf s.ibuf s.ilen.toNat)).length = s.ilen.toNat := by simp
    have hin (j : Nat) (hj : j < s.ilen.toNat) := Memory.read_writeBytes_lt
      (swapPairs (prefixOf s.ibuf s.ilen.toNat)) s.obuf (a := j) (by omega)
    rw [exec_swap_written hcap heven hw]
    refine ⟨_, succeed_eq _, ?frame, fun k hk => ?swapped, fun a ha => ?beyond⟩
    case frame =>
      have holen : half (swapPairs (prefixOf s.ibuf s.ilen.toNat)).length = s.ilen := by
        rw [hlen, half, BitVec.ofNat_toNat, BitVec.setWidth_eq]
      rw [State.putOutput, holen]
      rfl
    case swapped =>
      obtain ⟨hlo, hhi⟩ := getElem?_swapPairs_prefixOf hw heven hk
      exact ⟨(hin _ (by omega)).trans hlo, (hin _ hk).trans hhi⟩
    case beyond => exact Memory.read_writeBytes_ge _ _ (by omega)

/-! ### DEC16 and DEC32 -/

theorem readPayload_capacity {i : Instr} {n : Nat} {s : State} {k : List Byte → Result}
    (hcap : s.params.bufCap < s.plen.toNat) :
    readPayload i n s k = .next (s.failed 7 (half s.params.bufCap) s.plen) := by
  rw [readPayload, if_pos hcap]
  exact raise_eq ..

theorem readPayload_length {i : Instr} {n : Nat} {s : State} {k : List Byte → Result}
    (hcap : s.plen.toNat ≤ s.params.bufCap) (hn : s.plen.toNat ≠ n) :
    readPayload i n s k = .next (s.failed 4 (half n) s.plen) := by
  rw [readPayload, if_neg (by omega), if_pos hn]
  exact raise_eq ..

theorem readPayload_written {i : Instr} {n : Nat} {s : State} {k : List Byte → Result}
    (hcap : s.plen.toNat ≤ s.params.bufCap) (hn : s.plen.toNat = n) (hw : Written s.pbuf n) :
    readPayload i n s k = k (prefixOf s.pbuf n) := by
  rw [readPayload_eq_memRead i k hn (by omega), memRead_written (b := .pbuf) hw, State.buf_pbuf]

/-- DEC16 with a plain byte order (R126). -/
theorem exec_dec16_of_not_swaps (d : Byte) (sg : Signedness) {bo : ByteOrder}
    (h : bo.swaps = false) (s : State) :
    exec (.dec16 d sg bo) s =
      readPayload (.dec16 d sg bo) 2 s fun b =>
        succeed (s.putResult (signedValue (unpack16 b (endianOf bo)) sg) d) := by
  rw [exec_dec16, execDec16, if_neg (by simp [h])]

/-- Settles O27: the word is DEC16's own, and past the length checks PBUF[0:2] is decoded. -/
theorem dec16Command : Obligations.Dec16Command := by
  unfold Obligations.Dec16Command
  intro d sg bo
  have hword : operandWord 0x07 d sg bo = encode (.dec16 d sg bo) :=
    operandWord_eq_encodeFields 0x07 d sg bo
  rw [hword]
  refine ⟨decode_encode_dec16_of_swaps d sg, fun hbo => ?_⟩
  refine ⟨decode_encode (by simp [Instr.wf, hbo]), fun s => ?_⟩
  rw [exec_dec16_of_not_swaps d sg hbo]
  refine ⟨readPayload_capacity, readPayload_length, fun hcap hlen hw => ?_⟩
  rw [readPayload_written hcap hlen hw,
    signedValue_unpack16_eq_value16At (fun _ => byteAt_prefixOf_zero_add) sg hbo]
  exact succeed_eq _

/-- Settles O28: the word is DEC32's own, and past the length checks PBUF[0:4] is decoded. -/
theorem dec32Command : Obligations.Dec32Command := by
  unfold Obligations.Dec32Command
  intro d sg bo
  have hword : operandWord 0x08 d sg bo = encode (.dec32 d sg bo) :=
    operandWord_eq_encodeFields 0x08 d sg bo
  rw [hword]
  refine ⟨decode_encode rfl, fun w _ hw => ⟨_, decode_eq_reservedBits hw⟩, fun s => ?_⟩
  rw [exec_dec32, execDec32]
  refine ⟨readPayload_capacity, readPayload_length, fun hcap hlen hw => ?_⟩
  rw [readPayload_written hcap hlen hw, signedValue_unpack32_eq_value32At (length_prefixOf _ _)
    (fun _ => byteAt_prefixOf_zero_add) sg bo]
  exact succeed_eq _

/-! ### What a successful decode leaves in the result registers -/

/-- The result registers hold the integer `v` with `d` decimals (R125). -/
structure Decoded (v : Int) (d : Byte) (t : State) : Prop where
  rval : t.rval = BitVec.ofInt 64 v
  rdec : t.rdec = d
  rkind : t.rkind = kindOf d

theorem decoded_of_succeed {s t : State} {v : Int} {d : Byte}
    (h : succeed (s.putResult v d) = .next t) : Decoded v d t := by
  cases h
  exact ⟨rfl, rfl, rfl⟩

/-- The front half of a successful decode has read its payload (R126, R127). -/
theorem readPayload_ok {i : Instr} {n : Nat} {s t : State} {k : List Byte → Result}
    (h : readPayload i n s k = .next t) (ht : t.err = 0) : k (prefixOf s.pbuf n) = .next t := by
  rcases readPayload_cases i n s k with ⟨_, he⟩ | ⟨_, _, he⟩ | ⟨_, _, _, _, _, he⟩ |
    ⟨_, _, _, he⟩
  · cases he.symm.trans h; cases ht
  · cases he.symm.trans h; cases ht
  · cases he.symm.trans h
  · exact he.symm.trans h

/-- The front half of a successful parsing command has met a good response (R143). -/
theorem readResponse_ok {i : Instr} {s t : State} {k : Response → Result}
    (h : readResponse i s k = .next t) (ht : t.err = 0) :
    GoodResponse s ∧ k (responseOf s) = .next t := by
  rcases readResponse_cases i s k with ⟨_, he⟩ | ⟨_, _, he⟩ | ⟨_, _, _, _, _, he⟩ |
    ⟨_, _, _, _, he⟩ | ⟨_, _, _, _, _, he⟩ | ⟨hg, he⟩
  · cases he.symm.trans h; cases ht
  · cases he.symm.trans h; cases ht
  · cases he.symm.trans h
  · cases he.symm.trans h; cases ht
  · cases he.symm.trans h; cases ht
  · exact ⟨hg, he.symm.trans h⟩

/-- The back half of a successful composite command has decoded its payload (43_facade.md R160). -/
theorem decodeResponse_ok {n : Nat} {value : List Byte → Int} {d : Byte} {s t : State}
    {p : Response} (h : decodeResponse n value d s p = .next t) (ht : t.err = 0) :
    p.payload.length = n + s.params.payloadSkip ∧
      Decoded (value (slice p.payload s.params.payloadSkip (s.params.payloadSkip + n))) d t := by
  rcases decodeResponse_cases n value d s p with ⟨_, he⟩ | ⟨hlen, he⟩
  · cases he.symm.trans h; cases ht
  · exact ⟨hlen, decoded_of_succeed (he.symm.trans h)⟩

/-- A byte of a good response's payload past the skipped ones, where `n` of them stand
(43_facade.md R160). -/
theorem byteAt_slice_responseOf {s : State} {n k j : Nat} (h4 : 4 ≤ s.ilen.toNat)
    (hlen : (responseOf s).payload.length = n + k) (hj : j < n) :
    byteAt (slice (responseOf s).payload k (k + n)) j = byteOf s.ibuf (2 + k + j) := by
  rw [length_responseOf s h4] at hlen
  rw [byteAt_slice _ _ _ hj, byteAt_responseOf h4 (by omega),
    show k + j + 2 = 2 + k + j by omega]

theorem length_slice {l : List Byte} {n k : Nat} (h : l.length = n + k) :
    (slice l k (k + n)).length = n := by
  simp [slice, h, Nat.add_comm]

/-- A success of DEC16 decodes PBUF[0:2] (R126). -/
theorem exec_dec16_decoded {d : Byte} {sg : Signedness} {bo : ByteOrder} {s t : State}
    (h : exec (.dec16 d sg bo) s = .next t) (ht : t.err = 0) :
    Decoded (value16At s.pbuf 0 sg bo) d t := by
  rw [exec_dec16, execDec16] at h
  split at h
  case isTrue => cases h; cases ht
  case isFalse hbo =>
    rw [← signedValue_unpack16_eq_value16At (fun _ => byteAt_prefixOf_zero_add) sg
      (by simpa using hbo)]
    exact decoded_of_succeed (readPayload_ok h ht)

/-- A success of DEC32 decodes PBUF[0:4] (R127). -/
theorem exec_dec32_decoded {d : Byte} {sg : Signedness} {bo : ByteOrder} {s t : State}
    (h : exec (.dec32 d sg bo) s = .next t) (ht : t.err = 0) :
    Decoded (value32At s.pbuf 0 sg bo) d t := by
  rw [← signedValue_unpack32_eq_value32At (length_prefixOf _ _)
    (fun _ => byteAt_prefixOf_zero_add) sg bo]
  exact decoded_of_succeed (readPayload_ok h ht)

/-- A success of RDEC16 decodes the two bytes past the skipped ones (43_facade.md R161). -/
theorem exec_rdec16_decoded {d : Byte} {sg : Signedness} {bo : ByteOrder} {s t : State}
    (h : exec (.rdec16 d sg bo) s = .next t) (ht : t.err = 0) :
    Decoded (value16At s.ibuf (2 + s.params.payloadSkip) sg bo) d t := by
  rw [exec_rdec16, execRdec16] at h
  split at h
  case isTrue => cases h; cases ht
  case isFalse hbo =>
    obtain ⟨⟨h4, -⟩, hresponse⟩ := readResponse_ok h ht
    obtain ⟨hlen, hdecoded⟩ := decodeResponse_ok hresponse ht
    rwa [signedValue_unpack16_eq_value16At (fun _ => byteAt_slice_responseOf h4 hlen) sg
      (by simpa using hbo)] at hdecoded

/-- A success of RDEC32 decodes the four bytes past the skipped ones (43_facade.md R162). -/
theorem exec_rdec32_decoded {d : Byte} {sg : Signedness} {bo : ByteOrder} {s t : State}
    (h : exec (.rdec32 d sg bo) s = .next t) (ht : t.err = 0) :
    Decoded (value32At s.ibuf (2 + s.params.payloadSkip) sg bo) d t := by
  obtain ⟨⟨h4, -⟩, hresponse⟩ := readResponse_ok h ht
  obtain ⟨hlen, hdecoded⟩ := decodeResponse_ok hresponse ht
  rwa [signedValue_unpack32_eq_value32At (length_slice hlen)
    (fun _ => byteAt_slice_responseOf h4 hlen) sg bo] at hdecoded

/-! ### The exact quotient -/

theorem kindOf_eq_one_iff (d : Byte) : kindOf d = 1 ↔ d ≠ 0 := by
  by_cases hd : d = 0 <;> simp [kindOf, hd]

theorem Decoded.toInt_rval {v : Int} {d : Byte} {t : State} (h : Decoded v d t)
    (hv : FitsRval v) : t.rval.toInt = v := by
  rw [h.rval, hv.toInt_ofInt]

theorem Decoded.decodedValue_eq {v : Int} {d : Byte} {t : State} (h : Decoded v d t)
    (hv : FitsRval v) : decodedValue t = (v : ℚ) / (10 : ℚ) ^ d.toNat := by
  rw [decodedValue, h.toInt_rval hv, h.rdec]

/-- With no decimals the host gets the integer itself (R125). -/
theorem Decoded.hostNumber_eq {v : Int} {t : State} (h : Decoded v 0 t) (hv : FitsRval v) :
    hostNumber t = .integer v := by
  rw [hostNumber, if_pos (show t.rkind = 0 from h.rkind), h.toInt_rval hv]

/-- Settles O46: each decode leaves an integer that RVAL holds exactly, with its decimals. -/
theorem decodedValueIsTheExactQuotient : Obligations.DecodedValueIsTheExactQuotient := by
  unfold Obligations.DecodedValueIsTheExactQuotient
  intro d sg bo s t ht v h
  obtain ⟨hd, hv⟩ : Decoded v d t ∧ FitsRval v := by
    rcases h with ⟨h, rfl⟩ | ⟨h, rfl⟩ | ⟨h, rfl⟩ | ⟨h, rfl⟩
    · exact ⟨exec_dec16_decoded h ht, fitsRval_value16At ..⟩
    · exact ⟨exec_dec32_decoded h ht, fitsRval_value32At ..⟩
    · exact ⟨exec_rdec16_decoded h ht, fitsRval_value16At ..⟩
    · exact ⟨exec_rdec32_decoded h ht, fitsRval_value32At ..⟩
  refine ⟨hd.toInt_rval hv, hd.rdec, ?_, hd.decodedValue_eq hv, ?_⟩
  · rw [hd.rkind]
    exact kindOf_eq_one_iff d
  · rintro rfl
    exact ⟨by simp [hd.decodedValue_eq hv], hd.hostNumber_eq hv⟩

end Sys2Proof.Machine

/-! The frame builder and parser (42_frame.md R140 to R145): the request that BUILD writes, the checks of
the parsing commands in their order, and the payload that PARSE extracts. -/

namespace Sys2Proof.Machine

/-! ### BUILD -/

/-- Two big-endian bytes as numbers (R57, R86). -/
theorem toBigEndian_eq_ofNat (v : Half) :
    toBigEndian v = [BitVec.ofNat 8 (v.toNat / 256), BitVec.ofNat 8 (v.toNat % 256)] := by
  have hhigh : v.extractLsb' 8 8 = BitVec.ofNat 8 (v.toNat / 256) := by
    apply BitVec.eq_of_toNat_eq
    rw [BitVec.extractLsb'_toNat, Nat.shiftRight_eq_div_pow, BitVec.toNat_ofNat]
  have hlow : v.extractLsb' 0 8 = BitVec.ofNat 8 (v.toNat % 256) := by
    apply BitVec.eq_of_toNat_eq
    rw [BitVec.extractLsb'_toNat, Nat.shiftRight_zero, BitVec.toNat_ofNat, Nat.mod_mod]
  rw [toBigEndian, hhigh, hlow]

/-- The bytes of a request before its CRC as numbers (R140). -/
theorem requestBody_eq_ofNat (sa fc : Byte) (a n : Half) :
    requestBody sa fc a n =
      [sa, fc, BitVec.ofNat 8 (a.toNat / 256), BitVec.ofNat 8 (a.toNat % 256),
        BitVec.ofNat 8 (n.toNat / 256), BitVec.ofNat 8 (n.toNat % 256)] := by
  rw [requestBody, toBigEndian_eq_ofNat, toBigEndian_eq_ofNat]
  rfl

/-- BUILD writes the request's six bytes and their CRC, from every state (R141). -/
theorem exec_build_outputWithCrc {s : State} {body : List Byte}
    (h : requestBody s.slave s.fc s.regAddr s.regCount = body) :
    ∃ t, exec .build s = .next t ∧ OutputWithCrc s t body (crc16 body) := by
  rw [exec_build, execBuild_eq s body h]
  exact succeed_outputWithCrc s body _

/-- Settles O24: BUILD's output is the request's body, its bytes read as numbers, and then its CRC. -/
theorem buildCommand : Obligations.BuildCommand := by
  unfold Obligations.BuildCommand
  refine ⟨soleWord_of_decode_plain (by decide) (by decide), fun s => ?_⟩
  obtain ⟨t, ht, hout⟩ := exec_build_outputWithCrc (requestBody_eq_ofNat s.slave s.fc _ _)
  exact ⟨t, ht, hout.frame, hout.bodyWritten, hout.crcLow, hout.crcHigh, hout.beyond⟩

/-! ### The checks of the parsing commands -/

/-- The front half of a parsing command on written bytes within the length limits: the two CRCs decide,
then the address (R142, R143). -/
theorem readResponse_written {s : State} (i : Instr) (k : Response → Result)
    (h4 : 4 ≤ s.ilen.toNat) (hcap : s.ilen.toNat ≤ s.params.bufCap)
    (hw : Written s.ibuf s.ilen.toNat) :
    readResponse i s k =
      if computedCrc s ≠ receivedCrc s then
        raise s .checksumMismatch (computedCrc s) (receivedCrc s)
      else if byteOf s.ibuf 0 ≠ s.slave then
        raise s .addressMismatch (s.slave.setWidth 16) ((byteOf s.ibuf 0).setWidth 16)
      else k (responseOf s) := by
  rw [readResponse_eq_memRead i k h4 hcap, memRead_written (b := .ibuf) hw, State.buf_ibuf,
    parseResponse_prefixOf _ _ h4, ← receivedCrc_eq, apply_ite (afterParse s k),
    apply_ite (afterParse s k)]
  rfl

/-- A command that begins with the front half of PARSE rejects bad responses as PARSE does (R143,
43_facade.md R161, R162). -/
theorem rejectsBadResponses_of_exec_eq {i : Instr} {s : State} {k : Response → Result}
    (h : exec i s = readResponse i s k) : RejectsBadResponses i s := by
  unfold RejectsBadResponses
  rw [h]
  refine ⟨fun hcap => ?capacity, fun hcap hshort => ?short, fun hcap h4 hw hcrc => ?checksum,
    fun hcap h4 hw hcrc haddr => ?address⟩
  case capacity =>
    rw [readResponse, if_pos hcap]
    exact raise_eq ..
  case short =>
    rw [readResponse, if_neg (by omega), if_pos hshort]
    exact raise_eq ..
  case checksum =>
    rw [readResponse_written i k h4 hcap hw, if_pos hcrc]
    exact raise_eq ..
  case address =>
    rw [readResponse_written i k h4 hcap hw, if_neg (not_not.2 hcrc), if_pos haddr]
    exact raise_eq ..

/-! ### PARSE -/

/-- PARSE on a good response (R143). -/
theorem exec_parse_good {s : State} (hg : GoodResponse s) :
    exec .parse s =
      succeed ((s.putPayload (responseOf s).payload).putCrc (computedCrc s)) := by
  rw [exec_parse, execParse, readResponse_good hg]
  rfl

/-- Settles O25: PARSE rejects bad responses, and writes the payload of a good one to PBUF. -/
theorem parseCommand : Obligations.ParseCommand := by
  unfold Obligations.ParseCommand
  refine ⟨soleWord_of_decode_plain (by decide) (by decide),
    fun s => ⟨rejectsBadResponses_of_exec_eq (exec_parse s), fun hg => ?_⟩⟩
  have h4 : 4 ≤ s.ilen.toNat := hg.1
  rw [exec_parse_good hg]
  refine ⟨_, succeed_eq _, ?frame, payloadExtracted h4 rfl⟩
  rw [State.putPayload, length_responseOf s h4]
  rfl

end Sys2Proof.Machine

/-! The composite commands RDEC16 and RDEC32 (43_facade.md R160 to R162): the words without a meaning,
and what the back half writes on a good response. -/

namespace Sys2Proof

/-- A command without an encoding has a swapping byte order, and its word is illegal for it (R80). -/
theorem decode_encode_of_not_wf {i : Instr} (h : i.wf = false) :
    decode (encode i) = .error .byteOrder := by
  have hbo (op d : Byte) (sg : Signedness) (bo : ByteOrder) :
      ByteOrder.ofBits (boField (encodeFields op d sg bo)) = bo := by
    rw [boField_encodeFields, ByteOrder.ofBits_bits]
  cases i with
  | crc | crcApp | crcChk | build | parse | swap | dec32 | rdec32 => cases h
  | dec16 d sg bo | rdec16 d sg bo =>
    have hswaps : bo.swaps = true := by simpa [Instr.wf] using h
    rw [← hbo _ d sg bo] at hswaps
    rw [decode, if_neg (not_not.2 (rsvField_encode _)), opField_encode]
    exact if_pos hswaps

end Sys2Proof

namespace Sys2Proof.Machine

/-- RDEC16 with a plain byte order (R161). -/
theorem exec_rdec16_of_not_swaps (d : Byte) (sg : Signedness) {bo : ByteOrder}
    (h : bo.swaps = false) (s : State) :
    exec (.rdec16 d sg bo) s =
      readResponse (.rdec16 d sg bo) s
        (decodeResponse 2 (fun b => signedValue (unpack16 b (endianOf bo)) sg) d s) := by
  rw [exec_rdec16, execRdec16, if_neg (by simp [h])]

/-- A good response whose payload has another length than the decode's is CodecError (R160). -/
theorem readResponse_decodeResponse_length {s : State} {n : Nat} {value : List Byte → Int}
    {d : Byte} (i : Instr) (hg : GoodResponse s)
    (hn : s.ilen.toNat ≠ n + 4 + s.params.payloadSkip) :
    readResponse i s (decodeResponse n value d s) =
      .next (s.failed 4 (half (n + s.params.payloadSkip)) (half (s.ilen.toNat - 4))) := by
  have h4 : 4 ≤ s.ilen.toNat := hg.1
  have hlen := length_responseOf s h4
  rw [readResponse_good hg, decodeResponse, if_pos (by omega), hlen]
  exact raise_eq ..

/-- A good response of the decode's length: payload, CRC and value are written together (R160, R161). The
value is given as the one of any `n` bytes that agree with the payload past the skipped ones. -/
theorem readResponse_decodeResponse_written {s : State} {n : Nat} {value : List Byte → Int}
    {d : Byte} {v : Int} (i : Instr) (hg : GoodResponse s)
    (hn : s.ilen.toNat = n + 4 + s.params.payloadSkip)
    (hv : ∀ l : List Byte, l.length = n →
      (∀ j, j < n → byteAt l j = byteOf s.ibuf (2 + s.params.payloadSkip + j)) → value l = v) :
    ∃ t, readResponse i s (decodeResponse n value d s) = .next t ∧
      t =
        { s with
          pbuf := t.pbuf, plen := half (s.ilen.toNat - 4), crcv := computedCrc s,
          rval := BitVec.ofInt 64 v, rdec := d, rkind := kindOf d, err := 0, expv := 0,
          rcvv := 0 } ∧
      PayloadExtracted s t := by
  have h4 : 4 ≤ s.ilen.toNat := hg.1
  have hlen : (responseOf s).payload.length = n + s.params.payloadSkip := by
    rw [length_responseOf s h4]
    omega
  rw [readResponse_good hg, decodeResponse, if_neg (not_not.2 hlen),
    hv _ (length_slice hlen) fun _ => byteAt_slice_responseOf h4 hlen]
  refine ⟨_, succeed_eq _, ?frame, payloadExtracted h4 rfl⟩
  rw [State.putPayload, length_responseOf s h4]
  rfl

/-- Settles O29: the word is RDEC16's own, bad responses are rejected as by PARSE, and a good one of the
right length is decoded past the skipped bytes. -/
theorem rdec16Command : Obligations.Rdec16Command := by
  unfold Obligations.Rdec16Command
  intro d sg bo
  have hword : operandWord 0x09 d sg bo = encode (.rdec16 d sg bo) :=
    operandWord_eq_encodeFields 0x09 d sg bo
  rw [hword]
  refine ⟨fun hbo => decode_encode_of_not_wf (by simp [Instr.wf, hbo]), fun hbo => ?_⟩
  refine ⟨decode_encode (by simp [Instr.wf, hbo]), fun s _ => ?_⟩
  have hexec := exec_rdec16_of_not_swaps d sg hbo s
  refine ⟨rejectsBadResponses_of_exec_eq hexec, ?_⟩
  rw [hexec]
  exact ⟨readResponse_decodeResponse_length _, fun hg hn =>
    readResponse_decodeResponse_written _ hg hn fun _ _ hl =>
      signedValue_unpack16_eq_value16At hl sg hbo⟩

/-- Settles O30: the word is RDEC32's own, bad responses are rejected as by PARSE, and a good one of the
right length is decoded past the skipped bytes. -/
theorem rdec32Command : Obligations.Rdec32Command := by
  unfold Obligations.Rdec32Command
  intro d sg bo
  have hword : operandWord 0x0A d sg bo = encode (.rdec32 d sg bo) :=
    operandWord_eq_encodeFields 0x0A d sg bo
  rw [hword]
  refine ⟨decode_encode rfl, fun s _ => ?_⟩
  refine ⟨rejectsBadResponses_of_exec_eq (exec_rdec32 d sg bo s), ?_⟩
  rw [exec_rdec32, execRdec32]
  exact ⟨readResponse_decodeResponse_length _, fun hg hn =>
    readResponse_decodeResponse_written _ hg hn fun _ hlen hl =>
      signedValue_unpack32_eq_value32At hlen hl sg bo⟩

end Sys2Proof.Machine

/-! Errors and faults (60_exceptions.md R180 to R194): the illegal words, the ends of a command word,
and the cause of each error that a command raises. -/

namespace Sys2Proof.Machine

/-! ### Illegal words -/

theorem operand_ne_zero_of_decodePlain {w : Word} {i : Instr} {e : DecodeError}
    (h : decodePlain w i = .error e) : w.toNat / 256 % 2048 ≠ 0 := by
  intro h0
  have hbits : operandBits w = 0 := BitVec.eq_of_toNat_eq ((operandBits_toNat w).trans h0)
  rw [decodePlain, if_pos hbits] at h
  cases h

theorem two_le_of_decodeNarrow {w : Word} {mk : Byte → Signedness → ByteOrder → Instr}
    {e : DecodeError} (h : decodeNarrow w mk = .error e) : 2 ≤ w.toNat / 131072 % 4 := by
  rw [decodeNarrow] at h
  split at h
  case isTrue hs => rwa [ByteOrder.swaps_ofBits, decide_eq_true_iff, boField_toNat] at hs
  case isFalse => cases h

/-- A word that the decoder rejects is of one of the four kinds of R187. -/
theorem illegalWord_of_decode_error {w : Word} {e : DecodeError} (h : decode w = .error e) :
    IllegalWord w := by
  have hopn := opField_toNat w
  unfold IllegalWord
  unfold decode at h
  split at h
  case isTrue hr =>
    have := mt rsvField_eq_zero_iff.2 hr
    omega
  case isFalse =>
    split at h
    case h_1 hop | h_2 hop | h_3 hop | h_4 hop | h_5 hop | h_6 hop =>
      have := operand_ne_zero_of_decodePlain h
      omega
    case h_7 hop | h_9 hop =>
      have := two_le_of_decodeNarrow h
      omega
    case h_8 | h_10 => cases h
    case h_11 =>
      simp only [imp_false] at *
      omega

/-- A word of a command is of none of the four kinds (R78, R187). -/
theorem not_illegalWord_of_isWordOf {w : Word} {i : Instr} (h : IsWordOf w i) :
    ¬ IllegalWord w := by
  obtain ⟨hlt, hop, -⟩ := h
  have hopn : i.opcode.toNat = w.toNat % 256 := hop ▸ opField_toNat w
  unfold IllegalWord
  cases i with
  | crc | crcApp | crcChk | build | parse | swap | dec16 | dec32 | rdec16 | rdec32 =>
    simp only [Instr.opcode, Instr.wordBits, BitVec.reduceToNat] at hopn hlt
    omega

/-- The decoder rejects exactly the words of R187. -/
theorem illegalWord_iff {w : Word} : IllegalWord w ↔ ∃ e, decode w = .error e := by
  refine ⟨fun h => ?_, fun ⟨_, he⟩ => illegalWord_of_decode_error he⟩
  cases hd : decode w with
  | error e => exact ⟨e, rfl⟩
  | ok i => exact absurd h (not_illegalWord_of_isWordOf (isWordOf_of_decode hd))

/-- RCVV of IllegalCommand is OP as a number (R187). -/
theorem setWidth_opField (w : Word) :
    (opField w).setWidth 16 = BitVec.ofNat 16 (w.toNat % 256) := by
  rw [← opField_toNat, ← BitVec.ofNat_toNat]

/-- Settles O8: the decoder rejects exactly these words, and a rejected word is issued and raises
IllegalCommand. -/
theorem illegalWordsRaiseIllegalCommand : Obligations.IllegalWordsRaiseIllegalCommand := by
  unfold Obligations.IllegalWordsRaiseIllegalCommand
  refine fun w => ⟨illegalWord_iff, fun s h => ?_⟩
  obtain ⟨e, he⟩ := illegalWord_iff.1 h
  rw [perform_command, issueCommand_error he, setWidth_opField]
  rfl

/-! ### The ends of a command word -/

/-- The codes of the errors that the block raises (R181, R189). -/
theorem ErrCode.code_of_raised {e : ErrCode} (h : e ≠ .ok ∧ e ≠ .noResponse) :
    e.code = 1 ∨ e.code = 2 ∨ e.code = 3 ∨ e.code = 4 ∨ e.code = 6 ∨ e.code = 7 := by
  obtain ⟨hok, hno⟩ := h
  cases e with
  | ok => exact absurd rfl hok
  | noResponse => exact absurd rfl hno
  | tooShort | checksumMismatch | addressMismatch | codecError | illegalCommand | capacityError =>
    decide

/-- Settles O33: a legal word ends as its command does, an illegal one in IllegalCommand. -/
theorem everyCommandWordEndsInOneOfThreeWays :
    Obligations.EveryCommandWordEndsInOneOfThreeWays := by
  unfold Obligations.EveryCommandWordEndsInOneOfThreeWays
  intro s w
  rw [perform_command]
  cases hd : decode w with
  | error e =>
    rw [issueCommand_error hd]
    exact .inl ⟨_, rfl, .inr (ErrCode.code_of_raised (e := .illegalCommand) (by decide))⟩
  | ok i =>
    rw [issueCommand_ok hd]
    have hends := exec_ends i (s.issue w)
    generalize exec i (s.issue w) = r at hends ⊢
    cases hends with
    | fail e x y he => exact .inl ⟨_, rfl, .inr (ErrCode.code_of_raised he)⟩
    | fault b n j => exact .inr ⟨i, b, j, rfl⟩
    | ok t ht => exact .inl ⟨t, rfl, .inl ht⟩

/-- A failing command changes STATUS.ERR and DIAG only (R194). -/
theorem exec_next_failed {i : Instr} {s t : State} (h : exec i s = .next t) (ht : t.err ≠ 0) :
    t = s.failed t.err t.expv t.rcvv := by
  have hends := exec_ends i s
  rw [h] at hends
  cases hends with
  | fail => rfl
  | ok _ h0 => exact absurd h0.1 ht

/-- A failing command word changes CMD, STATUS and DIAG only (R194). -/
theorem issueCommand_next_failed {w : Word} {s t : State} (h : issueCommand w s = .next t)
    (ht : t.err ≠ 0) : t = (s.issue w).failed t.err t.expv t.rcvv := by
  cases hd : decode w with
  | ok i =>
    rw [issueCommand_ok hd] at h
    exact exec_next_failed h ht
  | error e =>
    rw [issueCommand_error hd] at h
    cases h
    rfl

/-- Settles O34: error entry writes ERR and DIAG alone, after CMD and LASTOP were written. -/
theorem failingCommandsChangeOnlyStatusAndDiag :
    Obligations.FailingCommandsChangeOnlyStatusAndDiag := by
  unfold Obligations.FailingCommandsChangeOnlyStatusAndDiag
  exact ⟨fun _ _ _ h ht => exec_next_failed h ht,
    fun s t w h ht => issueCommand_next_failed (perform_command w s ▸ h) ht⟩

/-! ### What the length checks compare -/

/-- The limit and the length register of a command's capacity check; none where it has no such check
(R188). -/
def capacityCheck (i : Instr) (s : State) : Option (Nat × Half) :=
  match i with
  | .build => none
  | .crcApp => some (s.params.bufCap - 2, s.ilen)
  | .dec16 .. | .dec32 .. => some (s.params.bufCap, s.plen)
  | .crc | .crcChk | .swap | .parse | .rdec16 .. | .rdec32 .. => some (s.params.bufCap, s.ilen)

/-- The least ILEN that a command takes (R183). -/
def minLength : Instr → Nat
  | .crcChk => 2
  | .parse | .rdec16 .. | .rdec32 .. => 4
  | .crc | .crcApp | .build | .swap | .dec16 .. | .dec32 .. => 0

/-! ### The cause of each error -/

/-- Why a command ended in an error state: the condition of each error and what DIAG then holds
(R183 to R188). -/
inductive Failure (i : Instr) (s : State) : State → Prop
  | tooShort (h : s.ilen.toNat < minLength i) :
      Failure i s (s.failed 1 (half (minLength i)) s.ilen)
  | checksum (h2 : 2 ≤ s.ilen.toNat) (hcrc : computedCrc s ≠ receivedCrc s) :
      Failure i s (s.failed 2 (computedCrc s) (receivedCrc s))
  | address (h4 : 4 ≤ s.ilen.toNat) (hcrc : computedCrc s = receivedCrc s)
      (haddr : byteOf s.ibuf 0 ≠ s.slave) :
      Failure i s (s.failed 3 (s.slave.setWidth 16) ((byteOf s.ibuf 0).setWidth 16))
  | codec (x y : Half) : Failure i s (s.failed 4 x y)
  | illegal (x y : Half) : Failure i s (s.failed 6 x y)
  | capacity (limit : Nat) (len : Half) (hcheck : capacityCheck i s = some (limit, len))
      (h : limit < len.toNat) : Failure i s (s.failed 7 (half limit) len)

/-- Every error that the outcome `r` holds has its cause. -/
def FailsWithCause (i : Instr) (s : State) (r : Result) : Prop :=
  ∀ t, r = .next t → t.err ≠ 0 → Failure i s t

theorem FailsWithCause.failed {i : Instr} {s t : State} (h : Failure i s t) :
    FailsWithCause i s (.next t) := by
  rintro _ ⟨⟩ _
  exact h

theorem FailsWithCause.fault {i : Instr} {s : State} (f : Fault) :
    FailsWithCause i s (.fault f) := nofun

theorem FailsWithCause.succeed {i : Instr} {s : State} (u : State) :
    FailsWithCause i s (Machine.succeed u) := by
  rintro _ ⟨⟩ ht
  exact absurd rfl ht

theorem FailsWithCause.memRead {i : Instr} {s : State} {b : Buf} {n : Nat}
    {k : List Byte → Result}
    (hk : Written (s.buf b) n → FailsWithCause i s (k (prefixOf (s.buf b) n))) :
    FailsWithCause i s (Machine.memRead i s b n k) := by
  rcases memRead_cases i s b n k with ⟨hw, h⟩ | ⟨_, _, _, h⟩ <;> rw [h]
  · exact hk hw
  · exact .fault _

theorem FailsWithCause.readResponse {i : Instr} {s : State} {k : Response → Result}
    (hcheck : capacityCheck i s = some (s.params.bufCap, s.ilen)) (hmin : minLength i = 4)
    (hk : FailsWithCause i s (k (responseOf s))) :
    FailsWithCause i s (Machine.readResponse i s k) := by
  rcases readResponse_cases i s k with ⟨hcap, h⟩ | ⟨_, hshort, h⟩ | ⟨_, _, _, _, _, h⟩ |
    ⟨h4, _, _, hcrc, h⟩ | ⟨h4, _, _, hcrc, haddr, h⟩ | ⟨_, h⟩ <;> rw [h]
  · exact .failed (.capacity _ _ hcheck hcap)
  · have hfail := Failure.tooShort (i := i) (s := s) (by omega)
    rw [hmin] at hfail
    exact .failed hfail
  · exact .fault _
  · exact .failed (.checksum (by omega) hcrc)
  · exact .failed (.address h4 hcrc haddr)
  · exact hk

theorem FailsWithCause.readPayload {i : Instr} {s : State} {n : Nat} {k : List Byte → Result}
    (hcheck : capacityCheck i s = some (s.params.bufCap, s.plen))
    (hk : FailsWithCause i s (k (prefixOf s.pbuf n))) :
    FailsWithCause i s (Machine.readPayload i n s k) := by
  rcases readPayload_cases i n s k with ⟨hcap, h⟩ | ⟨_, _, h⟩ | ⟨_, _, _, _, _, h⟩ |
    ⟨_, _, _, h⟩ <;> rw [h]
  · exact .failed (.capacity _ _ hcheck hcap)
  · exact .failed (.codec _ _)
  · exact .fault _
  · exact hk

theorem FailsWithCause.decodeResponse {i : Instr} {s : State} {n : Nat}
    {value : List Byte → Int} {d : Byte} {p : Response} :
    FailsWithCause i s (Machine.decodeResponse n value d s p) := by
  rcases decodeResponse_cases n value d s p with ⟨_, h⟩ | ⟨_, h⟩ <;> rw [h]
  · exact .failed (.codec _ _)
  · exact .succeed _

/-- CRCCHK's errors: capacity, length, then the CRCs (40_crc.md R107). -/
theorem failsWithCause_crcChk (s : State) : FailsWithCause .crcChk s (exec .crcChk s) := by
  rw [exec_crcChk, execCrcChk]
  split
  case isTrue hcap => exact .failed (.capacity _ _ rfl hcap)
  split
  case isTrue hshort => exact .failed (.tooShort hshort)
  case isFalse h2 =>
    refine .memRead fun _ => ?_
    rw [State.buf_ibuf, trailingCrc_prefixOf _ (not_lt.1 h2), ← receivedCrc_eq]
    dsimp only
    split
    case isTrue hcrc => exact .failed (.checksum (not_lt.1 h2) hcrc)
    case isFalse => exact .succeed _

/-- Every error that a command raises has its cause. -/
theorem exec_failsWithCause (i : Instr) (s : State) : FailsWithCause i s (exec i s) := by
  cases i with
  | build => exact .succeed _
  | crc =>
    rw [exec_crc, execCrc]
    split
    case isTrue hcap => exact .failed (.capacity _ _ rfl hcap)
    case isFalse => exact .memRead fun _ => .succeed _
  | crcApp =>
    rw [exec_crcApp, execCrcApp]
    split
    case isTrue hcap => exact .failed (.capacity _ _ rfl hcap)
    case isFalse => exact .memRead fun _ => .succeed _
  | crcChk => exact failsWithCause_crcChk s
  | swap =>
    rw [exec_swap, execSwap]
    split
    case isTrue hcap => exact .failed (.capacity _ _ rfl hcap)
    split
    case isTrue => exact .failed (.codec _ _)
    case isFalse => exact .memRead fun _ => .succeed _
  | parse => exact .readResponse rfl rfl (.succeed _)
  | dec16 d sg bo =>
    rw [exec_dec16, execDec16]
    split
    case isTrue => exact .failed (.illegal _ _)
    case isFalse => exact .readPayload rfl (.succeed _)
  | dec32 d sg bo => exact .readPayload rfl (.succeed _)
  | rdec16 d sg bo =>
    rw [exec_rdec16, execRdec16]
    split
    case isTrue => exact .failed (.illegal _ _)
    case isFalse => exact .readResponse rfl rfl .decodeResponse
  | rdec32 d sg bo => exact .readResponse rfl rfl .decodeResponse

/-! ### CapacityError and TooShort -/

/-- The commands with a least ILEN of 4 begin with the front half of PARSE (R143). -/
theorem exec_eq_readResponse {i : Instr} (hwf : i.wf = true) (hmin : minLength i = 4) (s : State) :
    ∃ k, exec i s = readResponse i s k := by
  cases i with
  | parse => exact ⟨_, exec_parse s⟩
  | rdec16 d sg bo => exact ⟨_, exec_rdec16_of_not_swaps d sg (by simpa [Instr.wf] using hwf) s⟩
  | rdec32 d sg bo => exact ⟨_, exec_rdec32 d sg bo s⟩
  | crc | crcApp | crcChk | build | swap | dec16 | dec32 => cases hmin

theorem rejectsBadResponses_of_minLength {i : Instr} (hwf : i.wf = true) (hmin : minLength i = 4)
    (s : State) : RejectsBadResponses i s := by
  obtain ⟨k, hk⟩ := exec_eq_readResponse hwf hmin s
  exact rejectsBadResponses_of_exec_eq hk

/-- The capacity check comes first (R188). -/
theorem exec_of_capacity_lt {i : Instr} {s : State} {limit : Nat} {len : Half}
    (hwf : i.wf = true) (hcheck : capacityCheck i s = some (limit, len))
    (h : limit < len.toNat) : exec i s = .next (s.failed 7 (half limit) len) := by
  cases i with
  | build => cases hcheck
  | crc | crcApp | crcChk | swap =>
    cases hcheck
    exact if_pos h
  | parse | rdec16 | rdec32 =>
    cases hcheck
    obtain ⟨hcapacity, -⟩ := rejectsBadResponses_of_minLength hwf rfl s
    exact hcapacity h
  | dec16 d sg bo =>
    cases hcheck
    rw [exec_dec16_of_not_swaps d sg (by simpa [Instr.wf] using hwf)]
    exact readPayload_capacity h
  | dec32 =>
    cases hcheck
    exact readPayload_capacity h

/-- CapacityError exactly when the length exceeds the limit (R188). -/
theorem exec_capacity_iff {i : Instr} {s : State} {limit : Nat} {len : Half}
    (hwf : i.wf = true) (hcheck : capacityCheck i s = some (limit, len)) :
    exec i s = .next (s.failed 7 (half limit) len) ↔ limit < len.toNat := by
  refine ⟨fun h => ?_, exec_of_capacity_lt hwf hcheck⟩
  have herr : (s.failed 7 (half limit) len).err = 7 := rfl
  generalize s.failed 7 (half limit) len = t at h herr
  cases exec_failsWithCause i s t h (by rw [herr]; decide) with
  | capacity limit' len' hcheck' hlt =>
    cases hcheck.symm.trans hcheck'
    exact hlt
  | tooShort | checksum | address | codec | illegal => cases herr

/-- Settles O36: each command's capacity check decides, whatever its later checks would find. -/
theorem capacityErrorComesFirst : Obligations.CapacityErrorComesFirst := by
  unfold Obligations.CapacityErrorComesFirst
  refine fun i s hs hwf => ⟨fun hi => ?input, fun hi => ?append, fun hi => ?payload⟩
  case input =>
    rcases hi with rfl | rfl | rfl | rfl | ⟨_, _, _, rfl⟩ | ⟨_, _, _, rfl⟩ <;>
      exact exec_capacity_iff hwf rfl
  case append =>
    subst hi
    obtain ⟨h8, -, -⟩ := hs
    exact (exec_capacity_iff hwf rfl).trans (by omega)
  case payload =>
    rcases hi with ⟨_, _, _, rfl⟩ | ⟨_, _, _, rfl⟩ <;> exact exec_capacity_iff hwf rfl

/-- The commands with a least ILEN are the parsing ones and CRCCHK (R183). -/
theorem lt_minLength_cases {i : Instr} {n : Nat} (h : n < minLength i) :
    ((i = .parse ∨ (∃ d sg bo, i = .rdec16 d sg bo) ∨ ∃ d sg bo, i = .rdec32 d sg bo) ∧ n < 4) ∨
      (i = .crcChk ∧ n < 2) := by
  cases i with
  | crcChk => exact .inr ⟨rfl, h⟩
  | parse => exact .inl ⟨.inl rfl, h⟩
  | rdec16 d sg bo => exact .inl ⟨.inr (.inl ⟨d, sg, bo, rfl⟩), h⟩
  | rdec32 d sg bo => exact .inl ⟨.inr (.inr ⟨d, sg, bo, rfl⟩), h⟩
  | crc | crcApp | build | swap | dec16 | dec32 => exact absurd h (Nat.not_lt_zero n)

/-- Settles O37: the length check stands before the read, and no other check raises TooShort. -/
theorem tooShortComesBeforeTheRead : Obligations.TooShortComesBeforeTheRead := by
  unfold Obligations.TooShortComesBeforeTheRead
  intro i s t hs hwf
  obtain ⟨h8, -, -⟩ := hs
  refine ⟨fun hi hshort => ?parsing, fun hi hshort => ?check, fun h ht => ?only⟩
  case parsing =>
    have hmin : minLength i = 4 := by
      rcases hi with rfl | ⟨_, _, _, rfl⟩ | ⟨_, _, _, rfl⟩ <;> rfl
    obtain ⟨-, hreject, -⟩ := rejectsBadResponses_of_minLength hwf hmin s
    exact hreject (by omega) hshort
  case check =>
    rw [hi, exec_crcChk, execCrcChk, if_neg (by omega), if_pos hshort]
    exact raise_eq ..
  case only =>
    cases exec_failsWithCause i s t h (by rw [ht]; decide) with
    | tooShort hlt => exact lt_minLength_cases hlt
    | checksum | address | codec | illegal | capacity => cases ht

/-! ### The mismatch errors -/

/-- Settles O38: both errors have one cause each, which says what DIAG holds. -/
theorem mismatchErrorsCarryBothValues : Obligations.MismatchErrorsCarryBothValues := by
  unfold Obligations.MismatchErrorsCarryBothValues
  refine fun i s t h => ⟨fun ht => ?checksum, fun ht => ?address⟩
  case checksum =>
    cases exec_failsWithCause i s t h (by rw [ht]; decide) with
    | checksum h2 hcrc => exact ⟨h2, rfl, rfl, hcrc⟩
    | tooShort | address | codec | illegal | capacity => cases ht
  case address =>
    cases exec_failsWithCause i s t h (by rw [ht]; decide) with
    | address h4 hcrc haddr => exact ⟨h4, hcrc, haddr, rfl, rfl⟩
    | tooShort | checksum | codec | illegal | capacity => cases ht

end Sys2Proof.Machine

/-! The command words in the other direction: encode after decode (30_encoding.md sections 2 to 7). -/

namespace Sys2Proof

/-- Settles O4: the word carries each operand in its own field. -/
theorem decodeOfEncodeIsTheCommand : Obligations.DecodeOfEncodeIsTheCommand := by
  unfold Obligations.DecodeOfEncodeIsTheCommand
  exact fun _ => decode_encode

/-- A word of a command is the command's encoding: it has no bit outside the command's fields
(R71, R77). -/
theorem encode_of_isWordOf {w : Word} {i : Instr} (h : IsWordOf w i) : encode i = w := by
  obtain ⟨hlt, hop, hargs⟩ := h
  have hlt19 : w.toNat < 2 ^ 19 :=
    hlt.trans_le (Nat.pow_le_pow_right (by decide) i.wordBits_bounds.2)
  have hw := eq_encodeFields (rsvField_eq_zero_iff.2 hlt19)
  rw [hop] at hw
  cases i with
  | crc | crcApp | crcChk | build | parse | swap =>
    obtain ⟨hdec, hsgn, hbo⟩ := fields_of_operandBits ((operandBits_eq_zero_iff hlt19).2 hlt)
    rw [hdec, hsgn, hbo] at hw
    exact hw.symm
  | dec16 | dec32 | rdec16 | rdec32 =>
    obtain ⟨rfl, rfl, rfl⟩ := hargs
    exact hw.symm

/-- Settles O5: a word that decodes is a word of its command, which is the command's encoding. -/
theorem encodeOfDecodeIsTheWord : Obligations.EncodeOfDecodeIsTheWord := by
  unfold Obligations.EncodeOfDecodeIsTheWord
  exact fun _ _ h => ⟨wf_of_decode h, encode_of_isWordOf (isWordOf_of_decode h)⟩

end Sys2Proof

/-! What a command leaves when it succeeds, said once for all ten: the condition of success and the state
written (40_crc.md R105 to R107, 41_codec.md R121 to R127, 42_frame.md R141, R143, 43_facade.md R161,
R162), and the two different values that a CodecError carries (60_exceptions.md R181). -/

namespace Sys2Proof.Machine

/-- IBUF[0:ILEN], the input of the commands that read IBUF. -/
def State.input (s : State) : List Byte := prefixOf s.ibuf s.ilen.toNat

/-- The request that BUILD writes, before its CRC (42_frame.md R140). -/
def State.request (s : State) : List Byte := requestBody s.slave s.fc s.regAddr s.regCount

/-- PBUF, PLEN and CRCV after a good response (42_frame.md R143). -/
def State.putResponse (s : State) : State :=
  (s.putPayload (responseOf s).payload).putCrc (computedCrc s)

/-- What a successful command writes, but for ERR and DIAG (10_state.md R42). -/
def successOf (i : Instr) (s : State) : State :=
  match i with
  | .crc => (s.putOutput (crcBytes s.input)).putCrc (crc16 s.input)
  | .crcApp => (s.putOutput (s.input ++ crcBytes s.input)).putCrc (crc16 s.input)
  | .crcChk => s.putCrc (computedCrc s)
  | .build => (s.putOutput (s.request ++ crcBytes s.request)).putCrc (crc16 s.request)
  | .parse => s.putResponse
  | .swap => s.putOutput (swapPairs s.input)
  | .dec16 d sg bo => s.putResult (value16At s.pbuf 0 sg bo) d
  | .dec32 d sg bo => s.putResult (value32At s.pbuf 0 sg bo) d
  | .rdec16 d sg bo =>
    s.putResponse.putResult (value16At s.ibuf (2 + s.params.payloadSkip) sg bo) d
  | .rdec32 d sg bo =>
    s.putResponse.putResult (value32At s.ibuf (2 + s.params.payloadSkip) sg bo) d

/-- The condition under which a command succeeds. -/
def Succeeds (i : Instr) (s : State) : Prop :=
  match i with
  | .crc => s.ilen.toNat ≤ s.params.bufCap ∧ Written s.ibuf s.ilen.toNat
  | .crcApp => s.ilen.toNat ≤ s.params.bufCap - 2 ∧ Written s.ibuf s.ilen.toNat
  | .crcChk =>
    2 ≤ s.ilen.toNat ∧ s.ilen.toNat ≤ s.params.bufCap ∧ Written s.ibuf s.ilen.toNat ∧
      computedCrc s = receivedCrc s
  | .build => True
  | .parse => GoodResponse s
  | .swap =>
    s.ilen.toNat ≤ s.params.bufCap ∧ s.ilen.toNat % 2 = 0 ∧ Written s.ibuf s.ilen.toNat
  | .dec16 _ _ bo => bo.swaps = false ∧ s.plen.toNat = 2 ∧ Written s.pbuf 2
  | .dec32 _ _ _ => s.plen.toNat = 4 ∧ Written s.pbuf 4
  | .rdec16 _ _ bo =>
    bo.swaps = false ∧ GoodResponse s ∧ s.ilen.toNat = 6 + s.params.payloadSkip
  | .rdec32 _ _ _ => GoodResponse s ∧ s.ilen.toNat = 8 + s.params.payloadSkip

/-- An outcome of a command: an error, a fault, or the success above. -/
inductive Completes (i : Instr) (s : State) : Result → Prop
  | error (e : ErrCode) (x y : Half) (he : e ≠ .ok)
      (hcodec : e = .codecError → s.params.Legal → x ≠ y) :
      Completes i s (.next (s.failed e.code x y))
  | fault (f : Fault) : Completes i s (.fault f)
  | success (h : Succeeds i s) : Completes i s (.next ((successOf i s).record .ok 0 0))

theorem Completes.raise {i : Instr} {s : State} (e : ErrCode) (x y : Half)
    (he : e ≠ .ok ∧ e ≠ .codecError) : Completes i s (Machine.raise s e x y) :=
  .error e x y he.1 fun h => absurd h he.2

theorem Completes.memRead {i : Instr} {s : State} {b : Buf} {n : Nat} {k : List Byte → Result}
    (hk : Written (s.buf b) n → Completes i s (k (prefixOf (s.buf b) n))) :
    Completes i s (Machine.memRead i s b n k) := by
  rcases memRead_cases i s b n k with ⟨hw, h⟩ | ⟨_, _, _, h⟩ <;> rw [h]
  · exact hk hw
  · exact .fault _

theorem Completes.readResponse {i : Instr} {s : State} {k : Response → Result}
    (hk : GoodResponse s → Completes i s (k (responseOf s))) :
    Completes i s (Machine.readResponse i s k) := by
  rcases readResponse_cases i s k with ⟨_, h⟩ | ⟨_, _, h⟩ | ⟨_, _, _, _, _, h⟩ |
    ⟨_, _, _, _, h⟩ | ⟨_, _, _, _, _, h⟩ | ⟨hg, h⟩ <;> rw [h]
  · exact .raise .capacityError _ _ (by decide)
  · exact .raise .tooShort _ _ (by decide)
  · exact .fault _
  · exact .raise .checksumMismatch _ _ (by decide)
  · exact .raise .addressMismatch _ _ (by decide)
  · exact hk hg

/-- A register that does not hold `n` differs from one that does. -/
theorem half_ne {n : Nat} (hn : n < 65536) {v : Half} (h : v.toNat ≠ n) : half n ≠ v := by
  rintro rfl
  exact h (Nat.mod_eq_of_lt hn)

theorem toNat_half {n : Nat} (h : n < 65536) : (half n).toNat = n := Nat.mod_eq_of_lt h

theorem Completes.readPayload {i : Instr} {s : State} {n : Nat} {k : List Byte → Result}
    (hn : n ≤ 4)
    (hk : s.plen.toNat = n → Written s.pbuf n → Completes i s (k (prefixOf s.pbuf n))) :
    Completes i s (Machine.readPayload i n s k) := by
  rcases readPayload_cases i n s k with ⟨_, h⟩ | ⟨_, hne, h⟩ | ⟨_, _, _, _, _, h⟩ |
    ⟨_, hlen, hw, h⟩ <;> rw [h]
  · exact .raise .capacityError _ _ (by decide)
  · exact .error .codecError _ _ (by decide) fun _ _ => half_ne (by omega) hne
  · exact .fault _
  · exact hk hlen hw

/-- The back half of a composite command on a good response (43_facade.md R160). -/
theorem Completes.decodeResponse {i : Instr} {s : State} {n : Nat} {value : List Byte → Int}
    {d : Byte} (hn : n ≤ 4) (hg : GoodResponse s)
    (hk : (responseOf s).payload.length = n + s.params.payloadSkip →
      Completes i s (succeed (s.putResponse.putResult
        (value (slice (responseOf s).payload s.params.payloadSkip (s.params.payloadSkip + n)))
          d))) :
    Completes i s (Machine.decodeResponse n value d s (responseOf s)) := by
  have hlen := length_responseOf s hg.1
  have hilen := s.ilen.isLt
  rcases decodeResponse_cases n value d s (responseOf s) with ⟨hne, h⟩ | ⟨heq, h⟩ <;> rw [h]
  · refine .error .codecError _ _ (by decide) fun _ ⟨_, _, hskip⟩ => half_ne (by omega) ?_
    rwa [toNat_half (by omega)]
  · exact hk heq

/-- Every command's outcome, from every state. -/
theorem exec_completes (i : Instr) (s : State) : Completes i s (exec i s) := by
  cases i with
  | build => exact .success trivial
  | crc =>
    rw [exec_crc, execCrc]
    split
    case isTrue => exact .raise .capacityError _ _ (by decide)
    case isFalse hcap => exact .memRead fun hw => .success ⟨not_lt.1 hcap, hw⟩
  | crcApp =>
    rw [exec_crcApp, execCrcApp]
    split
    case isTrue => exact .raise .capacityError _ _ (by decide)
    case isFalse hcap => exact .memRead fun hw => .success ⟨not_lt.1 hcap, hw⟩
  | crcChk =>
    rw [exec_crcChk, execCrcChk]
    split
    case isTrue => exact .raise .capacityError _ _ (by decide)
    case isFalse hcap =>
    split
    case isTrue => exact .raise .tooShort _ _ (by decide)
    case isFalse h2 =>
    refine .memRead fun hw => ?_
    rw [State.buf_ibuf, trailingCrc_prefixOf _ (not_lt.1 h2), ← receivedCrc_eq]
    dsimp only
    split
    case isTrue => exact .raise .checksumMismatch _ _ (by decide)
    case isFalse hcrc => exact .success ⟨not_lt.1 h2, not_lt.1 hcap, hw, not_not.1 hcrc⟩
  | parse => exact .readResponse fun hg => .success hg
  | swap =>
    rw [exec_swap, execSwap]
    split
    case isTrue => exact .raise .capacityError _ _ (by decide)
    case isFalse hcap =>
    split
    case isTrue hodd =>
      refine .error .codecError _ _ (by decide) fun _ _ heq => ?_
      rw [← heq] at hodd
      cases hodd
    case isFalse heven =>
      rw [getLsbD_zero_iff] at heven
      exact .memRead fun hw => .success ⟨not_lt.1 hcap, by omega, hw⟩
  | dec16 d sg bo =>
    rw [exec_dec16, execDec16]
    split
    case isTrue => exact .raise .illegalCommand _ _ (by decide)
    case isFalse hbo =>
      rw [Bool.not_eq_true] at hbo
      refine .readPayload (by decide) fun hlen hw => ?_
      rw [signedValue_unpack16_eq_value16At (fun _ => byteAt_prefixOf_zero_add) sg hbo]
      exact .success ⟨hbo, hlen, hw⟩
  | dec32 d sg bo =>
    rw [exec_dec32, execDec32]
    refine .readPayload (by decide) fun hlen hw => ?_
    rw [signedValue_unpack32_eq_value32At (length_prefixOf _ _)
      (fun _ => byteAt_prefixOf_zero_add) sg bo]
    exact .success ⟨hlen, hw⟩
  | rdec16 d sg bo =>
    rw [exec_rdec16, execRdec16]
    split
    case isTrue => exact .raise .illegalCommand _ _ (by decide)
    case isFalse hbo =>
      rw [Bool.not_eq_true] at hbo
      refine .readResponse fun hg => .decodeResponse (by decide) hg fun hlen => ?_
      rw [signedValue_unpack16_eq_value16At (fun _ => byteAt_slice_responseOf hg.1 hlen) sg hbo]
      rw [length_responseOf s hg.1] at hlen
      exact .success ⟨hbo, hg, by omega⟩
  | rdec32 d sg bo =>
    rw [exec_rdec32, execRdec32]
    refine .readResponse fun hg => .decodeResponse (by decide) hg fun hlen => ?_
    rw [signedValue_unpack32_eq_value32At (length_slice hlen)
      (fun _ => byteAt_slice_responseOf hg.1 hlen) sg bo]
    rw [length_responseOf s hg.1] at hlen
    exact .success ⟨hg, by omega⟩

theorem ErrCode.code_ne_zero {e : ErrCode} (h : e ≠ .ok) : e.code ≠ 0 := by
  cases e with
  | ok => exact absurd rfl h
  | tooShort | checksumMismatch | addressMismatch | codecError | noResponse | illegalCommand
  | capacityError => decide

/-- A success met its condition and left the state that the command writes. -/
theorem exec_success {i : Instr} {s t : State} (h : exec i s = .next t) (ht : t.err = 0) :
    Succeeds i s ∧ t = (successOf i s).record .ok 0 0 := by
  have hc := exec_completes i s
  rw [h] at hc
  cases hc with
  | error e x y he => exact absurd ht (ErrCode.code_ne_zero he)
  | success hok => exact ⟨hok, rfl⟩

/-- A CodecError carries two different values (60_exceptions.md R181, R186). -/
theorem exec_codecError {i : Instr} {s t : State} (hs : s.params.Legal)
    (h : exec i s = .next t) (ht : t.err = 4) : t.expv ≠ t.rcvv := by
  have hc := exec_completes i s
  rw [h] at hc
  cases hc with
  | error e x y _ hcodec =>
    rw [State.failed_err] at ht
    cases e with
    | codecError => exact hcodec rfl hs
    | ok | tooShort | checksumMismatch | addressMismatch | noResponse | illegalCommand
    | capacityError => cases ht
  | success => cases ht

end Sys2Proof.Machine

/-! What every step keeps of the memory: a step is a command word, a plain host access or a reset
(20_memory.md section 4), and a command writes a buffer within BUF_CAP only (20_memory.md R54). -/

namespace Sys2Proof.Machine

/-! ### One step -/

/-- A command word issues its command, or raises IllegalCommand (30_encoding.md R70). -/
theorem issueCommand_next_cases {w : Word} {s t : State} (h : issueCommand w s = .next t) :
    (∃ i, decode w = .ok i ∧ exec i (s.issue w) = .next t) ∨
      IllegalWord w ∧ t = (s.issue w).failed 6 0 ((opField w).setWidth 16) := by
  cases hd : decode w with
  | ok i => exact .inl ⟨i, rfl, issueCommand_ok hd s ▸ h⟩
  | error e =>
    rw [issueCommand_error hd] at h
    cases h
    exact .inr ⟨illegalWord_of_decode_error hd, rfl⟩

/-- What survives the taking of an input, every command word and every other effect of an input
survives every step (20_memory.md R59). -/
theorem step_keeps {P : State → Prop}
    (hpending : ∀ s rest, P s → P { s with pending := rest })
    (hcommand : ∀ s t w, P s → issueCommand w s = .next t → P t)
    (hplain : ∀ s t, P s → Plain s t → P t) {s t : State} (hs : P s) (h : step s = .next t) :
    P t := by
  cases hp : s.pending with
  | nil =>
    rw [step_nil hp] at h
    cases h
    exact hs
  | cons a rest =>
    rw [step_cons hp] at h
    rcases perform_next h with ⟨w, -, hw⟩ | hplain'
    · exact hcommand _ t w (hpending s rest hs) hw
    · exact hplain _ t (hpending s rest hs) hplain'

/-! ### The buffers -/

/-- The parameters, the buffers and OLEN after a command: at most OBUF with OLEN and PBUF are written,
from index 0 and within BUF_CAP (20_memory.md R54, 10_state.md R42). -/
structure WritesWithin (s t : State) : Prop where
  params : t.params = s.params
  ibuf : t.ibuf = s.ibuf
  output :
    (t.obuf = s.obuf ∧ t.olen = s.olen) ∨
      ∃ bs : List Byte, bs.length ≤ s.params.bufCap ∧
        t.obuf = Memory.writeBytes s.obuf 0 bs ∧ t.olen = half bs.length
  payload :
    t.pbuf = s.pbuf ∨
      ∃ bs : List Byte, bs.length ≤ s.params.bufCap ∧ t.pbuf = Memory.writeBytes s.pbuf 0 bs

theorem WritesWithin.putCrc {s t : State} (h : WritesWithin s t) (c : Half) :
    WritesWithin s (t.putCrc c) :=
  ⟨h.params, h.ibuf, h.output, h.payload⟩

theorem WritesWithin.putResult {s t : State} (h : WritesWithin s t) (v : Int) (d : Byte) :
    WritesWithin s (t.putResult v d) :=
  ⟨h.params, h.ibuf, h.output, h.payload⟩

theorem WritesWithin.record {s t : State} (h : WritesWithin s t) (e : ErrCode) (x y : Half) :
    WritesWithin s (t.record e x y) :=
  ⟨h.params, h.ibuf, h.output, h.payload⟩

theorem WritesWithin.refl (s : State) : WritesWithin s s :=
  ⟨rfl, rfl, .inl ⟨rfl, rfl⟩, .inl rfl⟩

theorem WritesWithin.putOutput {s : State} {bs : List Byte} (h : bs.length ≤ s.params.bufCap) :
    WritesWithin s (s.putOutput bs) :=
  ⟨rfl, rfl, .inr ⟨bs, h, rfl, rfl⟩, .inl rfl⟩

/-- The payload of a good response is shorter than the response (42_frame.md R143). -/
theorem WritesWithin.putResponse {s : State} (hg : GoodResponse s) :
    WritesWithin s s.putResponse := by
  obtain ⟨h4, hcap, -⟩ := hg
  have hlen := length_responseOf s h4
  exact ⟨rfl, rfl, .inl ⟨rfl, rfl⟩, .inr ⟨(responseOf s).payload, by omega, rfl⟩⟩

theorem State.length_input (s : State) : s.input.length = s.ilen.toNat := length_prefixOf _ _

theorem State.length_request (s : State) : s.request.length = 6 := requestBody_length _ _ _ _

theorem successOf_writesWithin {i : Instr} {s : State} (hs : s.params.Legal)
    (h : Succeeds i s) : WritesWithin s (successOf i s) := by
  obtain ⟨h8, -, -⟩ := hs
  have hinput := s.length_input
  have hrequest := s.length_request
  have hcrc (l : List Byte) : (l ++ crcBytes l).length = l.length + 2 := List.length_append
  cases i with
  | crc => exact (WritesWithin.putOutput (by rw [crcBytes_length]; omega)).putCrc _
  | crcApp =>
    obtain ⟨hcap, -⟩ := h
    exact (WritesWithin.putOutput (by rw [hcrc]; omega)).putCrc _
  | crcChk => exact (WritesWithin.refl s).putCrc _
  | build => exact (WritesWithin.putOutput (by rw [hcrc]; omega)).putCrc _
  | parse => exact .putResponse h
  | swap =>
    obtain ⟨hcap, -, -⟩ := h
    exact .putOutput (by rw [swapPairs_length]; omega)
  | dec16 | dec32 => exact (WritesWithin.refl s).putResult _ _
  | rdec16 =>
    obtain ⟨-, hg, -⟩ := h
    exact (WritesWithin.putResponse hg).putResult _ _
  | rdec32 =>
    obtain ⟨hg, -⟩ := h
    exact (WritesWithin.putResponse hg).putResult _ _

theorem exec_writesWithin {i : Instr} {s t : State} (hs : s.params.Legal)
    (h : exec i s = .next t) : WritesWithin s t := by
  have hc := exec_completes i s
  rw [h] at hc
  cases hc with
  | error e x y => exact (WritesWithin.refl s).record e x y
  | success hok => exact (successOf_writesWithin hs hok).record .ok 0 0

theorem State.MemInv.congr {s t : State} (h : s.MemInv) (hparams : t.params = s.params)
    (hibuf : t.ibuf = s.ibuf) (hobuf : t.obuf = s.obuf) (hpbuf : t.pbuf = s.pbuf)
    (holen : t.olen = s.olen) : t.MemInv := by
  obtain ⟨hlegal, hi, ho, hp, hfits, hwritten⟩ := h
  rw [← hparams] at hlegal hi ho hp hfits
  rw [← holen] at hfits hwritten
  rw [← hobuf] at hwritten
  exact ⟨hlegal, hibuf ▸ hi, hobuf ▸ ho, hpbuf ▸ hp, hfits, hwritten⟩

/-- Bytes written from index 0 are written. -/
theorem written_writeBytes (m : Memory) (bs : List Byte) :
    Written (Memory.writeBytes m 0 bs) bs.length := by
  intro j hj
  rw [Memory.read_writeBytes_lt bs m hj, List.getElem?_eq_getElem hj]
  rfl

theorem WritesWithin.memInv {s t : State} (hw : WritesWithin s t) (h : s.MemInv) : t.MemInv := by
  obtain ⟨hparams, hibuf, houtput, hpayload⟩ := hw
  obtain ⟨hlegal, hi, ho, hp, hfits, hwritten⟩ := h
  have hout : BufferForm s.params.bufCap t.obuf ∧ t.olen.toNat ≤ s.params.bufCap ∧
      Written t.obuf t.olen.toNat := by
    rcases houtput with ⟨hobuf, holen⟩ | ⟨bs, hlen, hobuf, holen⟩ <;> rw [hobuf, holen]
    · exact ⟨ho, hfits, hwritten⟩
    · obtain ⟨-, h4096, -⟩ := hlegal
      rw [toNat_half (by omega)]
      exact ⟨ho.writeBytes (by omega), hlen, written_writeBytes _ bs⟩
  have hpay : BufferForm s.params.bufCap t.pbuf := by
    rcases hpayload with hpbuf | ⟨bs, hlen, hpbuf⟩ <;> rw [hpbuf]
    · exact hp
    · exact hp.writeBytes (by omega)
  obtain ⟨hoform, hofits, howritten⟩ := hout
  rw [← hparams] at hlegal hi hoform hpay hofits
  exact ⟨hlegal, hibuf ▸ hi, hoform, hpay, hofits, howritten⟩

theorem issueCommand_memInv {s t : State} {w : Word} (h : s.MemInv)
    (ht : issueCommand w s = .next t) : t.MemInv := by
  have hissue : (s.issue w).MemInv := h.congr rfl rfl rfl rfl rfl
  rcases issueCommand_next_cases ht with ⟨i, -, hexec⟩ | ⟨-, rfl⟩
  · exact (exec_writesWithin hissue.legal hexec).memInv hissue
  · exact hissue.congr rfl rfl rfl rfl rfl

/-- After reset the buffers are empty and OLEN is 0 (70_reset_and_hazards.md R210). -/
theorem platformReset_memInv {s : State} (hs : s.params.Legal) : s.platformReset.MemInv :=
  ⟨hs, ⟨rfl, rfl⟩, ⟨rfl, rfl⟩, ⟨rfl, rfl⟩, Nat.zero_le _, nofun⟩

theorem Plain.memInv {s t : State} (hp : Plain s t) (h : s.MemInv) : t.MemInv := by
  cases hp with
  | reset => exact platformReset_memInv h.legal
  | slave | fc | regAddr | regCount | ilen | plen | reply | draw =>
    exact h.congr rfl rfl rfl rfl rfl
  | ibuf i v hi =>
    exact ⟨h.legal, h.ibuf.writeBytes hi, h.obuf, h.pbuf, h.olenFits, h.outputWritten⟩
  | pbuf i v hi =>
    exact ⟨h.legal, h.ibuf, h.obuf, h.pbuf.writeBytes hi, h.olenFits, h.outputWritten⟩

/-- Settles O48: a command writes a buffer from index 0 within BUF_CAP, a host write one byte below it,
and reset leaves the buffers empty. -/
theorem everyStepKeepsTheMemoryInvariant : Obligations.EveryStepKeepsTheMemoryInvariant := by
  unfold Obligations.EveryStepKeepsTheMemoryInvariant
  exact fun s t => step_keeps (P := State.MemInv) (fun _ _ h => h.congr rfl rfl rfl rfl rfl)
    (fun _ _ _ => issueCommand_memInv) (fun _ _ h hp => hp.memInv h)

/-- Settles O32: a command reads past its length check only, and writes within BUF_CAP only. -/
theorem commandsStayBelowTheCapacity : Obligations.CommandsStayBelowTheCapacity := by
  unfold Obligations.CommandsStayBelowTheCapacity
  refine fun i s t hs => ⟨fun b n hr => ?reads, fun h b a ha => ?writes⟩
  case reads =>
    obtain ⟨h8, -, -⟩ := hs
    cases i with
    | build => cases hr
    | crc | crcApp | crcChk | parse | swap | dec16 | dec32 | rdec16 | rdec32 =>
      obtain ⟨hlen, ⟨⟩⟩ := Option.ite_none_right_eq_some.1 hr
      omega
  case writes =>
    have beyond (m : Memory) (bs : List Byte) (hlen : bs.length ≤ s.params.bufCap) :=
      Memory.read_writeBytes_ge bs m (hlen.trans ha)
    obtain ⟨-, hibuf, houtput, hpayload⟩ := exec_writesWithin hs h
    cases b with
    | ibuf => rw [State.buf_ibuf, State.buf_ibuf, hibuf]
    | obuf =>
      rw [State.buf_obuf, State.buf_obuf]
      rcases houtput with ⟨hobuf, -⟩ | ⟨bs, hlen, hobuf, -⟩ <;> rw [hobuf]
      exact beyond _ bs hlen
    | pbuf =>
      rw [State.buf_pbuf, State.buf_pbuf]
      rcases hpayload with hpbuf | ⟨bs, hlen, hpbuf⟩ <;> rw [hpbuf]
      exact beyond _ bs hlen

end Sys2Proof.Machine

/-! What every step keeps of the registers: the ranges of the decodes (41_codec.md section 3), the
register invariant (10_state.md section 2) and the operands that each error carries (60_exceptions.md
section 1). -/

namespace Sys2Proof.Machine

/-! ### The ranges of the decodes -/

/-- The range of a `width`-bit pattern of the given signedness (41_codec.md R124). -/
def InRange (width : Nat) (sg : Signedness) (v : Int) : Prop :=
  match sg with
  | .unsigned => 0 ≤ v ∧ v < 2 ^ width
  | .signed => -2 ^ (width - 1) ≤ v ∧ v < 2 ^ (width - 1)

theorem denotes_inRange {width p : Nat} (sg : Signedness) (hw : 0 < width) (hp : p < 2 ^ width) :
    InRange width sg (denotes width sg p) := by
  have hp' : (p : Int) < 2 ^ width := by exact_mod_cast hp
  obtain ⟨k, rfl⟩ : ∃ k, width = k + 1 := ⟨width - 1, by omega⟩
  cases sg with
  | unsigned => exact ⟨Int.natCast_nonneg p, hp'⟩
  | signed =>
    simp only [InRange, denotes, Nat.add_sub_cancel]
    rw [pow_succ] at hp' ⊢
    split
    case isTrue hle =>
      have hle' : (2 : Int) ^ k ≤ p := by exact_mod_cast hle
      omega
    case isFalse hlt =>
      have hlt' : (p : Int) < 2 ^ k := by exact_mod_cast not_le.1 hlt
      omega

theorem value16At_inRange (m : Memory) (k : Nat) (sg : Signedness) (bo : ByteOrder) :
    InRange 16 sg (value16At m k sg bo) :=
  denotes_inRange sg (by decide) (number16_lt _ _ _)

theorem value32At_inRange (m : Memory) (k : Nat) (sg : Signedness) (bo : ByteOrder) :
    InRange 32 sg (value32At m k sg bo) :=
  denotes_inRange sg (by decide) (number32_lt _ _ _ _ _)

/-- Settles O45: RVAL holds what the decoded bytes denote, which has the range of their width. -/
theorem decodedValuesStayInRange : Obligations.DecodedValuesStayInRange := by
  unfold Obligations.DecodedValuesStayInRange
  refine fun d sg bo s t ht => ⟨fun h => ?width16, fun h => ?width32⟩
  case width16 =>
    have hrange : InRange 16 sg t.rval.toInt := by
      rcases h with h | h
      · rw [(exec_dec16_decoded h ht).toInt_rval (fitsRval_value16At ..)]
        exact value16At_inRange _ _ _ _
      · rw [(exec_rdec16_decoded h ht).toInt_rval (fitsRval_value16At ..)]
        exact value16At_inRange _ _ _ _
    exact ⟨fun hsg => by subst hsg; exact hrange.imp_right Int.le_sub_one_of_lt,
      fun hsg => by subst hsg; exact hrange.imp_right Int.le_sub_one_of_lt⟩
  case width32 =>
    have hrange : InRange 32 sg t.rval.toInt := by
      rcases h with h | h
      · rw [(exec_dec32_decoded h ht).toInt_rval (fitsRval_value32At ..)]
        exact value32At_inRange _ _ _ _
      · rw [(exec_rdec32_decoded h ht).toInt_rval (fitsRval_value32At ..)]
        exact value32At_inRange _ _ _ _
    exact ⟨fun hsg => by subst hsg; exact hrange.imp_right Int.le_sub_one_of_lt,
      fun hsg => by subst hsg; exact hrange.imp_right Int.le_sub_one_of_lt⟩

/-! ### The result registers -/

/-- The result registers after a decode of either width: RKIND says whether RDEC is 0, and RVAL lies in
the range of RegInv (10_state.md R33, R34). -/
structure ResultForm (t : State) : Prop where
  kind : t.rkind = 0 ↔ t.rdec = 0
  range : -2147483648 ≤ t.rval.toInt ∧ t.rval.toInt ≤ 4294967295

theorem kindOf_eq_zero_iff (d : Byte) : kindOf d = 0 ↔ d = 0 := by
  by_cases hd : d = 0 <;> simp [kindOf, hd]

theorem InRange.bounds {width : Nat} {sg : Signedness} {v : Int} (h : InRange width sg v)
    (hw : width = 16 ∨ width = 32) : -2147483648 ≤ v ∧ v ≤ 4294967295 := by
  rcases hw with rfl | rfl <;> cases sg <;> obtain ⟨hlo, hhi⟩ := h <;> omega

theorem resultForm_putResult {s : State} {width : Nat} {sg : Signedness} {v : Int} (d : Byte)
    (h : InRange width sg v) (hw : width = 16 ∨ width = 32) : ResultForm (s.putResult v d) := by
  obtain ⟨hlo, hhi⟩ := h.bounds hw
  have hv : (s.putResult v d).rval.toInt = v :=
    FitsRval.toInt_ofInt ⟨by omega, by omega⟩
  exact ⟨kindOf_eq_zero_iff d, by rw [hv]; exact ⟨hlo, hhi⟩⟩

theorem ResultForm.congr {s t : State} (h : ResultForm s) (hval : t.rval = s.rval)
    (hdec : t.rdec = s.rdec) (hkind : t.rkind = s.rkind) : ResultForm t := by
  obtain ⟨hk, hr⟩ := h
  exact ⟨by rw [hkind, hdec, hk], by rw [hval]; exact hr⟩

theorem exec_resultForm {i : Instr} {s t : State} (hs : ResultForm s)
    (h : exec i s = .next t) : ResultForm t := by
  have hc := exec_completes i s
  rw [h] at hc
  cases hc with
  | error => exact hs.congr rfl rfl rfl
  | success =>
    suffices hsucc : ResultForm (successOf i s) from hsucc.congr rfl rfl rfl
    cases i with
    | crc | crcApp | crcChk | build | parse | swap =>
      apply hs.congr <;> simp [successOf, State.putResponse]
    | dec16 | rdec16 => exact resultForm_putResult _ (value16At_inRange _ _ _ _) (.inl rfl)
    | dec32 | rdec32 => exact resultForm_putResult _ (value32At_inRange _ _ _ _) (.inr rfl)

/-! ### LASTOP and the pending inputs -/

theorem Frame.lastOp_pending {i : Instr} {s t : State} (h : Frame i s t) :
    t.lastOp = s.lastOp ∧ t.pending = s.pending := by
  cases i with
  | crcChk | dec16 | dec32 => exact ⟨(congrArg State.lastOp h :), (congrArg State.pending h :)⟩
  | crc | crcApp | build | parse | swap | rdec16 | rdec32 =>
    obtain ⟨ht, -⟩ := h
    exact ⟨(congrArg State.lastOp ht :), (congrArg State.pending ht :)⟩

theorem exec_next_lastOp_pending {i : Instr} {s t : State} (h : exec i s = .next t) :
    t.lastOp = s.lastOp ∧ t.pending = s.pending := by
  have hends := exec_ends i s
  rw [h] at hends
  cases hends with
  | fail => exact ⟨rfl, rfl⟩
  | ok _ _ hf => exact hf.lastOp_pending

/-- A command word leaves its OP in LASTOP and takes no further input (10_state.md R24). -/
theorem issueCommand_next_lastOp_pending {w : Word} {s t : State}
    (h : issueCommand w s = .next t) : t.lastOp = opField w ∧ t.pending = s.pending := by
  rcases issueCommand_next_cases h with ⟨i, -, hexec⟩ | ⟨-, rfl⟩
  · exact exec_next_lastOp_pending hexec
  · exact ⟨rfl, rfl⟩

theorem Plain.pending_eq {s t : State} (h : Plain s t) : t.pending = s.pending := by
  cases h <;> rfl

/-- Settles O18: neither a command word nor another effect of an input writes the list of inputs. -/
theorem everyStepTakesOneInput : Obligations.EveryStepTakesOneInput := by
  unfold Obligations.EveryStepTakesOneInput
  intro s t h
  cases hp : s.pending with
  | nil =>
    rw [step_nil hp] at h
    cases h
    exact hp
  | cons a rest =>
    rw [step_cons hp] at h
    rcases perform_next h with ⟨w, -, hw⟩ | hplain
    · exact (issueCommand_next_lastOp_pending hw).2
    · exact hplain.pending_eq

/-! ### The register invariant -/

theorem State.RegInv.resultForm {s : State} (h : s.RegInv) : ResultForm s := ⟨h.kind, h.range⟩

theorem State.RegInv.congr {s t : State} (h : s.RegInv) (hcmd : t.cmd = s.cmd)
    (herr : t.err = s.err) (hop : t.lastOp = s.lastOp)
    (hdiag : t.expv = s.expv ∧ t.rcvv = s.rcvv)
    (hres : t.rval = s.rval ∧ t.rdec = s.rdec ∧ t.rkind = s.rkind) : t.RegInv := by
  obtain ⟨hcode, hok, hlast, hillegal, hlegal, hkind, hrange⟩ := h
  obtain ⟨hexp, hrcv⟩ := hdiag
  obtain ⟨hval, hdec, hk⟩ := hres
  rw [← herr] at hcode hok hillegal hlegal
  rw [← hexp, ← hrcv] at hok
  rw [← hop, ← hcmd] at hlast
  rw [← hcmd] at hillegal hlegal
  rw [← hk, ← hdec] at hkind
  rw [← hval] at hrange
  exact ⟨hcode, hok, hlast, hillegal, hlegal, hkind, hrange⟩

/-- How a legal command word ends: success with DIAG 0, or an error other than IllegalCommand that the
block raises (60_exceptions.md R181, R187, R190). -/
theorem exec_next_err {i : Instr} {s t : State} (hwf : i.wf = true) (h : exec i s = .next t) :
    (t.err = 0 ∧ t.expv = 0 ∧ t.rcvv = 0) ∨
      t.err = 1 ∨ t.err = 2 ∨ t.err = 3 ∨ t.err = 4 ∨ t.err = 7 := by
  have hends := exec_ends i s
  rw [h] at hends
  cases hends with
  | ok _ ht => exact .inl ht
  | fail e x y he hi =>
    have hne : e.code ≠ 6#4 := by
      cases e with
      | illegalCommand => exact absurd (hi rfl) (by rw [hwf]; decide)
      | ok | tooShort | checksumMismatch | addressMismatch | codecError | noResponse
      | capacityError => decide
    exact .inr (by simpa [hne] using ErrCode.code_of_raised he)

theorem issueCommand_regInv {s t : State} {w : Word} (h : s.RegInv)
    (ht : issueCommand w s = .next t) : t.RegInv := by
  have hcmd := (issueCommand_next_params_cmd ht).2
  have hop := (issueCommand_next_lastOp_pending ht).1
  have hissue : ResultForm (s.issue w) := h.resultForm.congr rfl rfl rfl
  have hlast : t.lastOp = opField t.cmd := by rw [hop, hcmd]
  rcases issueCommand_next_cases ht with ⟨i, hd, hexec⟩ | ⟨hillegal, rfl⟩
  · have hlegal : ¬ IllegalWord t.cmd := by
      rw [hcmd]
      exact not_illegalWord_of_isWordOf (isWordOf_of_decode hd)
    obtain ⟨hkind, hrange⟩ := exec_resultForm hissue hexec
    have herr := exec_next_err (wf_of_decode hd) hexec
    refine ⟨?errCode, ?okDiag, hlast, fun hw => absurd hw hlegal, fun _ => ?legal, hkind, hrange⟩
    case errCode | okDiag | legal =>
      rcases herr with ⟨h0, hdiag⟩ | he | he | he | he | he
      · simp [h0, hdiag]
      all_goals simp [he]
  · exact ⟨⟨(by decide : 6 ≤ 7), (by decide : (6 : BitVec 4) ≠ 5)⟩, nofun, hlast,
      fun _ => .inl rfl, fun hlegal => absurd hillegal hlegal, hissue.kind, hissue.range⟩

/-- After reset the registers of the invariant are 0 (70_reset_and_hazards.md R210). -/
theorem platformReset_regInv (s : State) : s.platformReset.RegInv :=
  ⟨⟨Nat.zero_le 7, (by decide : (0 : BitVec 4) ≠ 5)⟩, fun _ => ⟨rfl, rfl⟩, rfl,
    fun _ => .inr ⟨rfl, rfl⟩, fun _ => (by decide : (0 : BitVec 4) ≠ 6),
    ⟨fun _ => rfl, fun _ => rfl⟩,
    (by decide : -2147483648 ≤ (0 : Wide).toInt ∧ (0 : Wide).toInt ≤ 4294967295)⟩

theorem Plain.regInv {s t : State} (hp : Plain s t) (h : s.RegInv) : t.RegInv := by
  cases hp with
  | reset => exact platformReset_regInv s
  | slave | fc | regAddr | regCount | ilen | plen | ibuf | pbuf | reply | draw =>
    exact h.congr rfl rfl rfl ⟨rfl, rfl⟩ ⟨rfl, rfl, rfl⟩

/-- Settles O49: a command word writes CMD and LASTOP together and ends as its legality says; no other
input but reset writes these registers. -/
theorem everyStepKeepsTheRegisterInvariant :
    Obligations.EveryStepKeepsTheRegisterInvariant := by
  unfold Obligations.EveryStepKeepsTheRegisterInvariant
  exact fun s t => step_keeps (P := State.RegInv)
    (fun _ _ h => h.congr rfl rfl rfl ⟨rfl, rfl⟩ ⟨rfl, rfl, rfl⟩)
    (fun _ _ _ => issueCommand_regInv) (fun _ _ h hp => hp.regInv h)

/-! ### The operands of each error -/

theorem State.DiagInv.congr {s t : State} (h : s.DiagInv) (hparams : t.params = s.params)
    (herr : t.err = s.err) (hop : t.lastOp = s.lastOp)
    (hdiag : t.expv = s.expv ∧ t.rcvv = s.rcvv) : t.DiagInv := by
  obtain ⟨hexp, hrcv⟩ := hdiag
  obtain ⟨hshort, hcrc, haddr, hcodec, hillegal, hcap⟩ := h
  rw [← herr, ← hexp, ← hrcv] at hshort hcrc haddr hcodec hillegal hcap
  rw [← hop] at hillegal
  rw [← hparams] at hcap
  exact ⟨hshort, hcrc, haddr, hcodec, hillegal, hcap⟩

/-- TooShort carries the least length of the command, and ILEN below it (R183). -/
theorem exec_tooShort_diag {i : Instr} {s t : State} (h : exec i s = .next t) (ht : t.err = 1) :
    (t.expv = 4 ∨ t.expv = 2) ∧ t.rcvv.toNat < t.expv.toNat := by
  cases exec_failsWithCause i s t h (by rw [ht]; decide) with
  | tooShort hlt =>
    cases i with
    | crcChk => exact ⟨.inr rfl, hlt⟩
    | parse | rdec16 | rdec32 => exact ⟨.inl rfl, hlt⟩
    | crc | crcApp | build | swap | dec16 | dec32 => exact absurd hlt (Nat.not_lt_zero _)
  | checksum | address | codec | illegal | capacity => cases ht

/-- AddressMismatch carries SLAVE and another byte (R185). -/
theorem exec_address_diag {i : Instr} {s t : State} (h : exec i s = .next t) (ht : t.err = 3) :
    t.expv ≠ t.rcvv ∧ t.expv.toNat < 256 ∧ t.rcvv.toNat < 256 := by
  have hnum (b : Byte) : (b.setWidth 16).toNat = b.toNat := BitVec.toNat_setWidth_of_le (by decide)
  cases exec_failsWithCause i s t h (by rw [ht]; decide) with
  | address _ _ haddr =>
    simp only [State.failed_expv, State.failed_rcvv, ne_eq, ← BitVec.toNat_inj, hnum]
    exact ⟨fun heq => haddr (BitVec.eq_of_toNat_eq heq.symm), s.slave.isLt, BitVec.isLt _⟩
  | tooShort | checksum | codec | illegal | capacity => cases ht

/-- CapacityError carries the limit of the command's length check, and a length above it (R188). -/
theorem exec_capacity_diag {i : Instr} {s t : State} (hs : s.params.Legal)
    (h : exec i s = .next t) (ht : t.err = 7) :
    (t.expv.toNat = s.params.bufCap ∨ t.expv.toNat + 2 = s.params.bufCap) ∧
      t.expv.toNat < t.rcvv.toNat := by
  obtain ⟨h8, h4096, -⟩ := hs
  cases exec_failsWithCause i s t h (by rw [ht]; decide) with
  | capacity limit len hcheck hlt =>
    have hlimit : limit = s.params.bufCap ∨ limit + 2 = s.params.bufCap := by
      cases i with
      | build => cases hcheck
      | crcApp =>
        cases hcheck
        omega
      | crc | crcChk | parse | swap | dec16 | dec32 | rdec16 | rdec32 =>
        cases hcheck
        exact .inl rfl
    rw [State.failed_expv, State.failed_rcvv, toNat_half (by omega)]
    exact ⟨hlimit, hlt⟩
  | tooShort | checksum | address | codec | illegal => cases ht

/-- DIAG fits ERR after a legal command, whatever stood there before. -/
theorem exec_diagInv {i : Instr} {s t : State} (hwf : i.wf = true) (hs : s.params.Legal)
    (h : exec i s = .next t) : t.DiagInv where
  tooShort := exec_tooShort_diag h
  checksum ht := by
    obtain ⟨-, hexp, hrcv, hne⟩ := (mismatchErrorsCarryBothValues i s t h).1 ht
    rwa [hexp, hrcv]
  address := exec_address_diag h
  codec := exec_codecError hs h
  illegal ht := by
    rcases exec_next_err hwf h with ⟨he, -⟩ | he | he | he | he | he <;> cases he.symm.trans ht
  capacity := by
    rw [(exec_next_params_cmd h).1]
    exact exec_capacity_diag hs h

theorem issueCommand_diagInv {s t : State} {w : Word} (hs : s.params.Legal)
    (h : issueCommand w s = .next t) : t.DiagInv := by
  rcases issueCommand_next_cases h with ⟨i, hd, hexec⟩ | ⟨-, rfl⟩
  · exact exec_diagInv (s := s.issue w) (wf_of_decode hd) hs hexec
  · exact ⟨nofun, nofun, nofun, nofun, fun _ => ⟨rfl, rfl⟩, nofun⟩

theorem platformReset_diagInv (s : State) : s.platformReset.DiagInv :=
  ⟨nofun, nofun, nofun, nofun, nofun, nofun⟩

theorem Plain.diagInv {s t : State} (hp : Plain s t) (h : s.DiagInv) : t.DiagInv := by
  cases hp with
  | reset => exact platformReset_diagInv s
  | slave | fc | regAddr | regCount | ilen | plen | ibuf | pbuf | reply | draw =>
    exact h.congr rfl rfl rfl ⟨rfl, rfl⟩

/-- Settles O50: each error has its cause, which says what DIAG holds; no other input but reset writes
ERR or DIAG. -/
theorem everyStepKeepsDiagFittingErr : Obligations.EveryStepKeepsDiagFittingErr := by
  unfold Obligations.EveryStepKeepsDiagFittingErr
  intro s t hs h hstep
  have hkeeps : t.params.Legal ∧ t.DiagInv := step_keeps
    (P := fun s => s.params.Legal ∧ s.DiagInv)
    (fun _ _ h => ⟨h.1, h.2.congr rfl rfl rfl ⟨rfl, rfl⟩⟩)
    (fun _ _ _ h ht =>
      ⟨(issueCommand_next_params_cmd ht).1 ▸ h.1, issueCommand_diagInv h.1 ht⟩)
    (fun _ _ h hp => ⟨hp.params_eq ▸ h.1, hp.diagInv h.2⟩) ⟨hs, h⟩ hstep
  exact hkeeps.2

/-- Settles O47: the state after reset is what a reset of it leaves. -/
theorem resetMeetsTheInvariants : Obligations.ResetMeetsTheInvariants := by
  unfold Obligations.ResetMeetsTheInvariants
  exact ⟨platformReset_memInv (s := .reset) (by decide), platformReset_regInv .reset,
    platformReset_diagInv .reset⟩

end Sys2Proof.Machine

/-! The host's view (20_memory.md sections 2, 4, 5, 10_state.md section 2): what register and buffer reads
return, what a byte write changes, and the steps of the words written to CMD. -/

namespace Sys2Proof.Machine

/-! ### Steps and reset -/

/-- Settles O2: a step performs the oldest input, and a legal word written to CMD issues its command. -/
theorem stepRunsTheOldestInput : Obligations.StepRunsTheOldestInput := by
  unfold Obligations.StepRunsTheOldestInput
  refine fun s => ⟨step_nil, fun rest => ⟨fun a => step_cons, fun w i hp hd => ?_⟩⟩
  rw [step_cons hp, perform_command, issueCommand_ok hd]
  rfl

/-- Settles O3: each word is decoded. -/
theorem wordsDecodeToTheirCommands : Obligations.WordsDecodeToTheirCommands := by
  unfold Obligations.WordsDecodeToTheirCommands
  decide

/-- Settles O9: reset writes the reset values, whatever the state was. -/
theorem resetSetsEveryRegister : Obligations.ResetSetsEveryRegister := by
  unfold Obligations.ResetSetsEveryRegister
  exact fun _ => rfl

/-- Settles O35: the frame is part of how a command ends. -/
theorem successfulCommandsKeepTheirFrame : Obligations.SuccessfulCommandsKeepTheirFrame := by
  unfold Obligations.SuccessfulCommandsKeepTheirFrame
  intro i s t h ht
  have hends := exec_ends i s
  rw [h] at hends
  cases hends with
  | fail e x y he => exact absurd ht (ErrCode.code_ne_zero he.1)
  | ok _ _ hf => exact hf

/-! ### The register words as numbers -/

/-- Two fields side by side in a register word: a sum (10_state.md R22). -/
theorem toNat_fields {m n k : Nat} (lo : BitVec m) (hi : BitVec n) (hlo : m ≤ k)
    (hhi : k + n ≤ 32) :
    (lo.setWidth 32 ||| hi.setWidth 32 <<< k).toNat = lo.toNat + hi.toNat * 2 ^ k := by
  have hlo' : lo.toNat < 2 ^ k := lo.isLt.trans_le (Nat.pow_le_pow_right (by decide) hlo)
  have hhi' : hi.toNat <<< k < 2 ^ 32 := by
    rw [Nat.shiftLeft_eq]
    calc hi.toNat * 2 ^ k < 2 ^ n * 2 ^ k := Nat.mul_lt_mul_of_pos_right hi.isLt (by positivity)
      _ = 2 ^ (k + n) := by rw [← pow_add, Nat.add_comm]
      _ ≤ 2 ^ 32 := Nat.pow_le_pow_right (by decide) hhi
  rw [BitVec.toNat_or, BitVec.toNat_shiftLeft, BitVec.toNat_setWidth_of_le (by omega),
    BitVec.toNat_setWidth_of_le (by omega), Nat.mod_eq_of_lt hhi', or_shift_eq_add _ _ k hlo']

theorem statusWord_toNat (s : State) : s.statusWord.toNat = s.err.toNat + s.lastOp.toNat * 256 :=
  toNat_fields s.err s.lastOp (by decide) (by decide)

theorem diagWord_toNat (s : State) : s.diagWord.toNat = s.expv.toNat + s.rcvv.toNat * 65536 :=
  toNat_fields s.expv s.rcvv (by decide) (by decide)

theorem rinfoWord_toNat (s : State) : s.rinfoWord.toNat = s.rdec.toNat + s.rkind.toNat * 256 :=
  toNat_fields s.rdec s.rkind (by decide) (by decide)

/-- What a register read returns, as a number (10_state.md R22 to R36). -/
theorem readRegister_toNat {s : State} (hs : s.params.Legal) (r : Reg) :
    (readRegister s r).toNat = registerNumber s r := by
  have hfield {n : Nat} (v : BitVec n) (hn : n ≤ 32) : (v.setWidth 32).toNat = v.toNat :=
    BitVec.toNat_setWidth_of_le hn
  cases r with
  | cmd => rfl
  | status => rw [readRegister, statusWord_toNat, registerNumber, Nat.mul_comm]
  | diag => rw [readRegister, diagWord_toNat, registerNumber, Nat.mul_comm]
  | rinfo => rw [readRegister, rinfoWord_toNat, registerNumber, Nat.mul_comm]
  | param => rw [readRegister, paramWord_toNat hs, registerNumber, Nat.mul_comm]
  | slave | fc | regAddr | regCount | ilen | olen | plen | crcv => exact hfield _ (by decide)
  | rvalLo => simp [readRegister, registerNumber, BitVec.extractLsb'_toNat]
  | rvalHi =>
    have := s.rval.isLt
    simp only [readRegister, registerNumber, BitVec.extractLsb'_toNat, Nat.shiftRight_eq_div_pow]
    omega

/-- A 32-bit read at a register's offset is a read of that register (R22, R51). -/
theorem perform_read32_offset (r : Reg) (s : State) :
    perform (.read32 r.offset) s = .next (s.reply (.word (readRegister s r))) := by
  simp only [perform, hostRead32, locate_offset]

/-- Settles O11: the fields of a register stand side by side in the word that a read returns. -/
theorem registerReadsReturnTheirFields : Obligations.RegisterReadsReturnTheirFields := by
  unfold Obligations.RegisterReadsReturnTheirFields
  exact fun s r hs => ⟨readRegister s r, perform_read32_offset r s, readRegister_toNat hs r⟩

/-! ### STATUS after a command word -/

/-- STATUS reads 0 only where both of its fields are 0 (R24). -/
theorem statusWord_eq_zero {s : State} (h : s.statusWord = 0) : s.err = 0 ∧ s.lastOp = 0 := by
  have hnum := statusWord_toNat s
  rw [h] at hnum
  have hzero : (0 : Word).toNat = 0 := rfl
  exact ⟨BitVec.eq_of_toNat_eq (show s.err.toNat = 0 by omega),
    BitVec.eq_of_toNat_eq (show s.lastOp.toNat = 0 by omega)⟩

theorem opcode_ne_zero (i : Instr) : i.opcode ≠ 0 := by
  cases i <;> simp [Instr.opcode]

/-- Settles O10: LASTOP of a legal word is an opcode, which is not 0, and ERR of an illegal one is 6. -/
theorem noCommandLeavesStatusZero : Obligations.NoCommandLeavesStatusZero := by
  unfold Obligations.NoCommandLeavesStatusZero
  refine ⟨rfl, fun s t w h hstatus => ?_⟩
  obtain ⟨herr, hop⟩ := statusWord_eq_zero hstatus
  rw [perform_command] at h
  rw [(issueCommand_next_lastOp_pending h).1] at hop
  rcases issueCommand_next_cases h with ⟨i, hd, -⟩ | ⟨-, rfl⟩
  · exact opcode_ne_zero i ((isWordOf_of_decode hd).op.symm.trans hop)
  · cases herr

/-! ### Host reads -/

/-- A register read that has a step (R51). -/
theorem perform_read32_next {off : Half} {s t : State} (h : perform (.read32 off) s = .next t) :
    ∃ r, off = Reg.offset r ∧ t = s.reply (.word (readRegister s r)) := by
  simp only [perform, hostRead32] at h
  split at h
  case h_1 r hl =>
    cases h
    exact ⟨r, locate_register_inv hl, rfl⟩
  case h_2 | h_3 | h_4 => cases h

/-- A byte read at the place of a buffer byte (R51). -/
theorem perform_read8_of_locate {off : Half} {s : State} {b : Buf} {i : Nat}
    (h : locate s.params off = .byte b i) :
    perform (.read8 off) s = .next (readBufferByte b i s) := by
  simp only [perform, hostRead8, h]

/-- A byte read that has a step (R51). -/
theorem perform_read8_next {off : Half} {s t : State} (h : perform (.read8 off) s = .next t) :
    ∃ b i, locate s.params off = .byte b i ∧ t = readBufferByte b i s := by
  simp only [perform, hostRead8] at h
  split at h
  case h_3 b i hl =>
    cases h
    exact ⟨b, i, hl, rfl⟩
  case h_1 | h_2 | h_4 => cases h

theorem readBufferByte_some {b : Buf} {i : Nat} {s : State} {v : Byte}
    (h : Memory.read (s.buf b) i = some v) : readBufferByte b i s = s.reply (.byte v) := by
  simp only [readBufferByte, h]

theorem readBufferByte_none {b : Buf} {i : Nat} {s : State}
    (h : Memory.read (s.buf b) i = none) :
    readBufferByte b i s = s.draw.reply (.byte (Config.freeByte s.draws)) := by
  simp only [readBufferByte, h]

theorem buf_reply (s : State) (r : Reply) (b : Buf) : (s.reply r).buf b = s.buf b := by
  cases b <;> rfl

/-- Settles O15: a read adds a reply, and a read that draws no free byte finds what it read. -/
theorem hostReadsChangeNothing : Obligations.HostReadsChangeNothing := by
  unfold Obligations.HostReadsChangeNothing
  rintro s t off a (rfl | rfl) h
  · obtain ⟨r, rfl, rfl⟩ := perform_read32_next h
    exact ⟨rfl, _, rfl, fun _ => ⟨_, perform_read32_offset r _, rfl, rfl⟩⟩
  · obtain ⟨b, i, hl, rfl⟩ := perform_read8_next h
    cases hv : Memory.read (s.buf b) i with
    | some v =>
      rw [readBufferByte_some hv]
      refine ⟨rfl, _, rfl, fun _ => ⟨_, perform_read8_of_locate (s := s.reply _) hl, ?_⟩⟩
      rw [readBufferByte_some (by rw [buf_reply, hv])]
      exact ⟨rfl, rfl⟩
    | none =>
      rw [readBufferByte_none hv]
      exact ⟨rfl, _, rfl, fun hdraws => absurd hdraws (Nat.succ_ne_self s.draws)⟩

/-- Settles O16: the read finds the buffer byte at its offset, or draws a free byte. -/
theorem bufferReadReturnsTheLastValueWritten :
    Obligations.BufferReadReturnsTheLastValueWritten := by
  unfold Obligations.BufferReadReturnsTheLastValueWritten
  intro s b i off hs hi hoff
  rw [perform_read8_of_locate (locate_byte hs hi hoff)]
  refine ⟨fun v hv => ?written, fun hv => ⟨Config.freeByte s.draws, ?unwritten⟩⟩
  case written =>
    rw [readBufferByte_some hv]
    rfl
  case unwritten =>
    rw [readBufferByte_none hv]
    rfl

/-! ### Host writes to buffers -/

/-- A byte write at the place of a buffer byte (R51). -/
theorem perform_write8_of_locate {off : Half} {s : State} {b : Buf} {i : Nat} (v : Byte)
    (h : locate s.params off = .byte b i) :
    perform (.write8 off v) s = writeBufferByte b i v s := by
  simp only [perform, hostWrite8, h]

/-- Settles O17: the write reaches the buffer byte at its offset alone. -/
theorem hostByteWriteChangesOneByte : Obligations.HostByteWriteChangesOneByte := by
  unfold Obligations.HostByteWriteChangesOneByte
  intro s i off v hs hi
  refine ⟨fun hoff => ⟨s.memWrite .ibuf i [v], ?ibuf, rfl, Memory.read_write_self _ _ _,
      fun a ha => Memory.read_write_other _ _ ha⟩,
    fun hoff => ⟨s.memWrite .pbuf i [v], ?pbuf, rfl, Memory.read_write_self _ _ _,
      fun a ha => Memory.read_write_other _ _ ha⟩⟩
  case ibuf => exact perform_write8_of_locate v (locate_byte (b := .ibuf) hs hi hoff)
  case pbuf => exact perform_write8_of_locate v (locate_byte (b := .pbuf) hs hi hoff)

end Sys2Proof.Machine

/-! The CRC as a shift register (40_crc.md section 1): it is linear and no step loses information, so the
bit-serial form, the residue of an appended CRC and the detection of a flipped bit follow; and SWAP is its
own inverse (41_codec.md R120). -/

namespace Sys2Proof.Machine

/-! ### The shift steps -/

theorem crcShift_eq (x : Half) :
    crcShift x = (x >>> 1) ^^^ if x.getLsbD 0 then Config.crcPoly else 0#16 := by
  by_cases h : x.getLsbD 0 = true
  · rw [crcShift, if_pos h, if_pos h]
  · rw [crcShift, if_neg h, if_neg h, BitVec.xor_zero]

theorem crcShift_xor (x y : Half) : crcShift (x ^^^ y) = crcShift x ^^^ crcShift y := by
  have hpoly : ∀ a b : Bool, (if (a ^^ b) then Config.crcPoly else 0#16) =
      (if a then Config.crcPoly else 0#16) ^^^ if b then Config.crcPoly else 0#16 := by decide
  rw [crcShift_eq, crcShift_eq x, crcShift_eq y, BitVec.ushiftRight_xor_distrib,
    BitVec.getLsbD_xor, hpoly]
  ac_rfl

/-- The top bit after a shift step is the bit shifted out: the polynomial has its top bit set (R101). -/
theorem getLsbD_crcShift_top (x : Half) : (crcShift x).getLsbD 15 = x.getLsbD 0 := by
  rw [crcShift_eq]
  cases h : x.getLsbD 0 <;> simp [Config.crcPoly]

/-- A shift step loses no information. -/
theorem crcShift_injective : Function.Injective crcShift := by
  intro x y h
  have hlow : x.getLsbD 0 = y.getLsbD 0 := by
    rw [← getLsbD_crcShift_top x, h, getLsbD_crcShift_top y]
  rw [crcShift_eq, crcShift_eq, hlow, BitVec.xor_left_inj] at h
  apply BitVec.eq_of_getLsbD_eq
  intro j hj
  cases j with
  | zero => exact hlow
  | succ j => simpa [Nat.add_comm 1] using congrArg (·.getLsbD j) h

theorem crcShifts_eq_iterate (n : Nat) (x : Half) : crcShifts n x = crcShift^[n] x := by
  induction n generalizing x with
  | zero => rfl
  | succ n ih => exact ih (crcShift x)

theorem crcShifts_injective (n : Nat) : Function.Injective (crcShifts n) := by
  rw [show crcShifts n = crcShift^[n] from funext (crcShifts_eq_iterate n)]
  exact crcShift_injective.iterate n

theorem crcShifts_add (m n : Nat) (x : Half) :
    crcShifts m (crcShifts n x) = crcShifts (m + n) x := by
  simp only [crcShifts_eq_iterate, Function.iterate_add_apply]

theorem crcShifts_xor (n : Nat) (x y : Half) :
    crcShifts n (x ^^^ y) = crcShifts n x ^^^ crcShifts n y := by
  induction n generalizing x y with
  | zero => rfl
  | succ n ih => simp only [crcShifts, crcShift_xor, ih]

/-- Where the bits shifted out are 0 the polynomial does not enter. -/
theorem crcShifts_of_low_zero {n : Nat} {x : Half} (h : ∀ j, j < n → x.getLsbD j = false) :
    crcShifts n x = x >>> n := by
  induction n generalizing x with
  | zero => simp [crcShifts]
  | succ n ih =>
    have hx : crcShift x = x >>> 1 := if_neg (ne_true_of_eq_false (h 0 (by omega)))
    rw [crcShifts, hx, ih fun j hj => by simpa [Nat.add_comm 1] using h (j + 1) (by omega),
      ← BitVec.shiftRight_add, Nat.add_comm 1]

@[simp] theorem crcShifts_zero (n : Nat) : crcShifts n 0#16 = 0#16 := by
  rw [crcShifts_of_low_zero fun _ _ => BitVec.getLsbD_zero, BitVec.zero_ushiftRight]

/-! ### The table step -/

/-- One table step is eight shift steps of the register with the byte added (R100, R101). -/
theorem crcStep_eq_crcShifts (r : Half) (b : Byte) :
    crcStep r b = crcShifts 8 (r ^^^ b.setWidth 16) := by
  generalize hx : r ^^^ b.setWidth 16 = x
  have hsplit : x = (x >>> 8 <<< 8) ^^^ (x.setWidth 8).setWidth 16 := by
    apply BitVec.eq_of_getLsbD_eq
    intro j hj
    by_cases hj8 : j < 8
    · simp [hj, hj8]
    · simp [hj, hj8, show 8 + (j - 8) = j by omega]
  have hhigh : crcShifts 8 (x >>> 8 <<< 8) = x >>> 8 := by
    rw [crcShifts_of_low_zero fun j hj => by simp [hj]]
    apply BitVec.eq_of_getLsbD_eq
    intro j hj
    by_cases hj8 : j < 8
    · simp [show 8 + j < 16 by omega]
    · simp [BitVec.getLsbD_of_ge x (8 + j) (by omega)]
  have hbyte : x >>> 8 = r >>> 8 := by
    rw [← hx, BitVec.ushiftRight_xor_distrib]
    have hzero : b.setWidth 16 >>> 8 = 0#16 := by
      apply BitVec.eq_of_getLsbD_eq
      intro j hj
      simp
    rw [hzero, BitVec.xor_zero]
  calc crcStep r b = (x >>> 8) ^^^ crcTable (x.setWidth 8) := by rw [crcStep, hx, hbyte]
    _ = crcShifts 8 (x >>> 8 <<< 8) ^^^ crcShifts 8 ((x.setWidth 8).setWidth 16) := by
      rw [hhigh, crcTable]
    _ = crcShifts 8 x := by rw [← crcShifts_xor, ← hsplit]

theorem crcStep_injective_left (b : Byte) : Function.Injective (crcStep · b) := by
  intro r q h
  simp only [crcStep_eq_crcShifts] at h
  exact (BitVec.xor_left_inj _).1 (crcShifts_injective 8 h)

theorem crcStep_injective_right (r : Half) : Function.Injective (crcStep r) := by
  intro b c h
  simp only [crcStep_eq_crcShifts] at h
  have hword := (BitVec.xor_right_inj _).1 (crcShifts_injective 8 h)
  simpa using congrArg (·.setWidth 8) hword

theorem foldl_crcStep_injective (l : List Byte) :
    Function.Injective (fun r => l.foldl crcStep r) := by
  induction l with
  | nil => exact fun _ _ h => h
  | cons b l ih => exact fun _ _ h => crcStep_injective_left b (ih h)

/-- A sequence with one byte changed has another CRC. -/
theorem crc16_set_ne {l : List Byte} {k : Nat} (hk : k < l.length) {b : Byte} (h : b ≠ l[k]) :
    crc16 (l.set k b) ≠ crc16 l := by
  have hsplit : l.take k ++ l[k] :: l.drop (k + 1) = l := by
    rw [List.getElem_cons_drop hk, List.take_append_drop]
  have hne : crc16 (l.take k ++ b :: l.drop (k + 1)) ≠
      crc16 (l.take k ++ l[k] :: l.drop (k + 1)) := by
    rw [crc16_append, crc16_append]
    exact fun heq => h (crcStep_injective_right _ (foldl_crcStep_injective _ heq))
  rwa [hsplit, ← List.set_eq_take_cons_drop b hk] at hne

/-! ### The bit-serial form -/

theorem bitSerialCrc_eq_foldl (s : List Byte) (r : Half) :
    bitSerialCrc s r = s.foldl crcStep r := by
  induction s generalizing r with
  | nil => rfl
  | cons b s ih =>
    have hstep : (fun (c : Half) (_ : Nat) =>
        if c.toNat % 2 = 1 then (c >>> 1) ^^^ 0xA001 else c >>> 1) = fun c _ => crcShift c := by
      funext c _
      simp only [crcShift, ← getLsbD_zero_iff, Config.crcPoly]
    rw [bitSerialCrc, ih, hstep, List.foldl_const, List.length_range, ← crcShifts_eq_iterate,
      List.foldl_cons, crcStep_eq_crcShifts]

/-- Settles O19: a table step is eight bit steps. -/
theorem crcEqualsTheBitSerialForm : Obligations.CrcEqualsTheBitSerialForm := by
  unfold Obligations.CrcEqualsTheBitSerialForm
  exact ⟨fun s => (bitSerialCrc_eq_foldl s _).symm, by decide⟩

/-! ### The residue of an appended CRC -/

/-- Two wire bytes are sixteen shift steps of the register with their number added (R89, R100). -/
theorem foldl_crcStep_toWire (r c : Half) :
    (toWire c).foldl crcStep r = crcShifts 16 (r ^^^ c) := by
  have hhigh : (c.extractLsb' 8 8).setWidth 16 =
      crcShifts 8 ((c.extractLsb' 8 8).setWidth 16 <<< 8) := by
    rw [crcShifts_of_low_zero fun j hj => by simp [hj]]
    apply BitVec.eq_of_getLsbD_eq
    intro j hj
    by_cases hj8 : j < 8
    · simp [hj, hj8, show 8 + j < 16 by omega]
    · simp [hj8]
  have hwire : (c.extractLsb' 0 8).setWidth 16 ^^^ ((c.extractLsb' 8 8).setWidth 16 <<< 8) = c := by
    apply BitVec.eq_of_getLsbD_eq
    intro j hj
    by_cases hj8 : j < 8
    · simp [hj, hj8]
    · simp [hj, hj8, show j - 8 < 8 by omega, show 8 + (j - 8) = j by omega]
  calc (toWire c).foldl crcStep r
      = crcShifts 8 (crcShifts 8 (r ^^^ (c.extractLsb' 0 8).setWidth 16) ^^^
          (c.extractLsb' 8 8).setWidth 16) := by
        simp only [toWire, List.foldl_cons, List.foldl_nil, crcStep_eq_crcShifts]
    _ = crcShifts 16 (r ^^^ c) := by
        rw [hhigh, ← crcShifts_xor, crcShifts_add, BitVec.xor_assoc, hwire]

/-- The CRC of a sequence with two more wire bytes is 0 exactly when they are its CRC. -/
theorem crc16_append_toWire_eq_zero_iff (s : List Byte) (c : Half) :
    crc16 (s ++ toWire c) = 0#16 ↔ crc16 s = c := by
  rw [crc16_append, foldl_crcStep_toWire, ← crcShifts_zero 16, (crcShifts_injective 16).eq_iff,
    BitVec.xor_eq_zero_iff]

/-- Settles O20: the CRC bytes cancel the register. -/
theorem appendedCrcHasZeroResidue : Obligations.AppendedCrcHasZeroResidue := by
  unfold Obligations.AppendedCrcHasZeroResidue
  exact fun s => (crc16_append_toWire_eq_zero_iff s _).2 rfl

/-! ### CRCCHK as a residue -/

theorem toWire_fromWire (lo hi : Byte) : toWire (fromWire lo hi) = [lo, hi] := by
  have hlow : (fromWire lo hi).extractLsb' 0 8 = lo := by
    apply BitVec.eq_of_getLsbD_eq
    intro j hj
    simp [fromWire, hj, show j < 16 by omega]
  have hhigh : (fromWire lo hi).extractLsb' 8 8 = hi := by
    apply BitVec.eq_of_getLsbD_eq
    intro j hj
    simp [fromWire, hj, show 8 + j < 16 by omega]
  rw [toWire, hlow, hhigh]

theorem prefixOf_succ (m : Memory) (n : Nat) :
    prefixOf m (n + 1) = prefixOf m n ++ [byteOf m n] := by
  simp [prefixOf, List.range_succ]

/-- The two CRCs that CRCCHK compares agree exactly when the whole input has CRC 0 (R107). -/
theorem computedCrc_eq_receivedCrc_iff {s : State} (h : 2 ≤ s.ilen.toNat) :
    computedCrc s = receivedCrc s ↔ crc16 s.input = 0#16 := by
  obtain ⟨n, hn⟩ : ∃ n, s.ilen.toNat = n + 2 := ⟨s.ilen.toNat - 2, by omega⟩
  have hinput : s.input = prefixOf s.ibuf n ++ toWire (receivedCrc s) := by
    rw [receivedCrc_eq, toWire_fromWire, State.input, hn, prefixOf_succ, prefixOf_succ]
    simp
  rw [hinput, crc16_append_toWire_eq_zero_iff, computedCrc, hn, Nat.add_sub_cancel]

/-! ### The host's copy of an output -/

/-- The bytes of a written output, read from a copy of it. -/
theorem prefixOf_of_reads {m : Memory} {l : List Byte}
    (h : ∀ j, j < l.length → Memory.read m j = l[j]?) : prefixOf m l.length = l := by
  apply List.ext_getElem?
  intro j
  by_cases hj : j < l.length
  · have hbyte := h j hj
    rw [List.getElem?_eq_getElem hj] at hbyte
    rw [getElem?_prefixOf m hj, byteOf_eq hbyte, List.getElem?_eq_getElem hj]
  · rw [List.getElem?_eq_none (by simpa using hj), List.getElem?_eq_none (by omega)]

theorem written_of_reads {m : Memory} {l : List Byte}
    (h : ∀ j, j < l.length → Memory.read m j = l[j]?) : Written m l.length := by
  intro j hj
  rw [h j hj, List.getElem?_eq_getElem hj]
  rfl

/-- A success of CRCAPP leaves its input and then the CRC in OBUF (R106). -/
theorem exec_crcApp_output {s t : State} (hs : s.params.Legal) (h : exec .crcApp s = .next t)
    (ht : t.err = 0) :
    ∃ l : List Byte, l = s.input ++ crcBytes s.input ∧ 2 ≤ l.length ∧
      l.length ≤ s.params.bufCap ∧ t.olen.toNat = l.length ∧ t.crcv = crc16 s.input ∧
      ∀ j, j < l.length → Memory.read t.obuf j = l[j]? := by
  obtain ⟨⟨hcap, -⟩, rfl⟩ := exec_success h ht
  obtain ⟨h8, h4096, -⟩ := hs
  have hlen : (s.input ++ crcBytes s.input).length = s.ilen.toNat + 2 := by
    rw [List.length_append, s.length_input, crcBytes_length]
  exact ⟨_, rfl, by omega, by omega, toNat_half (by omega), rfl,
    fun j hj => Memory.read_writeBytes_lt _ _ hj⟩

/-- CRCCHK of a copy of the bytes `l`: their CRC decides (R107). -/
theorem exec_crcChk_copy {u : State} {l : List Byte} (h2 : 2 ≤ l.length)
    (hcap : l.length ≤ u.params.bufCap) (hlen : u.ilen.toNat = l.length)
    (hread : ∀ j, j < l.length → Memory.read u.ibuf j = l[j]?) :
    exec .crcChk u =
      if crc16 l ≠ 0#16 then raise u .checksumMismatch (computedCrc u) (receivedCrc u)
      else succeed (u.putCrc (computedCrc u)) := by
  have hinput : u.input = l := by rw [State.input, hlen, prefixOf_of_reads hread]
  have hcrc := computedCrc_eq_receivedCrc_iff (s := u) (by omega)
  rw [hinput] at hcrc
  rw [exec_crcChk_written (by omega) (by omega) (hlen ▸ written_of_reads hread)]
  simp only [ne_eq, hcrc]

/-- Settles O42: CRCAPP's output has CRC 0, and all of it but the CRC is CRCAPP's input. -/
theorem appendThenCheckSucceeds : Obligations.AppendThenCheckSucceeds := by
  unfold Obligations.AppendThenCheckSucceeds
  intro s t u hs h ht hparams hilen hcopy
  obtain ⟨l, hl, h2, hcap, holen, hcrcv, hout⟩ := exec_crcApp_output hs h ht
  rw [holen] at hcopy
  have hread (j : Nat) (hj : j < l.length) : Memory.read u.ibuf j = l[j]? :=
    (hcopy j hj).trans (hout j hj)
  have hlen : u.ilen.toNat = l.length := by rw [hilen, holen]
  have hzero : crc16 l = 0#16 := hl ▸ appendedCrcHasZeroResidue s.input
  have hbody : prefixOf u.ibuf (l.length - 2) = s.input := by
    rw [← take_prefixOf u.ibuf (n := l.length) (by omega), prefixOf_of_reads hread, hl,
      List.length_append, crcBytes_length, Nat.add_sub_cancel, List.take_left]
  rw [exec_crcChk_copy h2 (by rw [hparams]; exact hcap) hlen hread, if_neg (not_not.2 hzero)]
  exact ⟨_, succeed_eq _, rfl, by rw [hcrcv, ← hbody, ← hlen]; rfl⟩

theorem flip_ne (b : Byte) {bit : Nat} (h : bit < 8) : b ≠ b ^^^ BitVec.ofNat 8 (2 ^ bit) := by
  have hmask : ∀ k, k < 8 → BitVec.ofNat 8 (2 ^ k) ≠ 0#8 := by decide
  intro heq
  exact hmask bit h ((BitVec.xor_right_inj b).1 (heq.symm.trans BitVec.xor_zero.symm))

/-- Settles O43: the flipped bytes differ from CRCAPP's output in one byte, so their CRC is not 0. -/
theorem singleBitFlipIsDetected : Obligations.SingleBitFlipIsDetected := by
  unfold Obligations.SingleBitFlipIsDetected
  intro s t u k bit hs h ht hparams hilen hk hbit hcopy hflip
  obtain ⟨l, hl, h2, hcap, holen, -, hout⟩ := exec_crcApp_output hs h ht
  rw [holen] at hk hcopy
  have hread (j : Nat) (hj : j < (l.set k (l[k] ^^^ BitVec.ofNat 8 (2 ^ bit))).length) :
      Memory.read u.ibuf j = (l.set k (l[k] ^^^ BitVec.ofNat 8 (2 ^ bit)))[j]? := by
    rw [List.length_set] at hj
    by_cases hjk : j = k
    · subst hjk
      rw [hflip, hout j hj, List.getElem?_set_self hj, List.getElem?_eq_getElem hj]
      rfl
    · rw [hcopy j hj hjk, hout j hj, List.getElem?_set_ne (Ne.symm hjk)]
  have hcrc : crc16 (l.set k (l[k] ^^^ BitVec.ofNat 8 (2 ^ bit))) ≠ 0#16 := by
    have hne := crc16_set_ne hk (flip_ne l[k] hbit).symm
    rwa [show crc16 l = 0#16 from hl ▸ appendedCrcHasZeroResidue s.input] at hne
  rw [exec_crcChk_copy (by rwa [List.length_set]) (by rwa [List.length_set, hparams])
    (by rw [hilen, holen, List.length_set]) hread, if_pos hcrc]
  exact ⟨_, raise_eq .., rfl⟩

/-! ### SWAP -/

theorem swapPairs_swapPairs (l : List Byte) : swapPairs (swapPairs l) = l := by
  induction l using swapPairs.induct with
  | case1 a b rest ih => rw [swapPairs, swapPairs, ih]
  | case2 rest h =>
    have hrest : swapPairs rest = rest := by
      rw [swapPairs]
      exact h
    rw [hrest, hrest]

/-- Settles O44: SWAP writes the pair swap of its input, and the pair swap is its own inverse. -/
theorem swapTwiceRestoresTheInput : Obligations.SwapTwiceRestoresTheInput := by
  unfold Obligations.SwapTwiceRestoresTheInput
  intro s t u h ht hparams hilen hcopy
  obtain ⟨⟨hcap, heven, hw⟩, rfl⟩ := exec_success h ht
  have hlen : (swapPairs s.input).length = s.ilen.toNat := by
    rw [swapPairs_length, s.length_input]
  have holen : u.ilen = s.ilen := by
    rw [hilen]
    exact (congrArg half hlen).trans (by rw [half, BitVec.ofNat_toNat, BitVec.setWidth_eq])
  rw [← hilen, holen, ← hlen] at hcopy
  have hread (j : Nat) (hj : j < (swapPairs s.input).length) :
      Memory.read u.ibuf j = (swapPairs s.input)[j]? :=
    (hcopy j hj).trans (Memory.read_writeBytes_lt _ _ hj)
  have hinput : prefixOf u.ibuf u.ilen.toNat = swapPairs s.input := by
    rw [holen, ← hlen, prefixOf_of_reads hread]
  have hwritten : Written u.ibuf u.ilen.toNat := by
    rw [holen, ← hlen]
    exact written_of_reads hread
  rw [exec_swap_written (by rwa [holen, hparams]) (by rwa [holen]) hwritten, hinput,
    swapPairs_swapPairs]
  refine ⟨_, succeed_eq _, rfl, ?olen, fun j hj => ?bytes⟩
  case olen =>
    exact (congrArg half s.length_input).trans
      (by rw [half, BitVec.ofNat_toNat, BitVec.setWidth_eq])
  case bytes =>
    refine (Memory.read_writeBytes_lt s.input u.obuf (by rwa [s.length_input])).trans ?_
    rw [State.input, getElem?_prefixOf _ hj, read_of_isSome (hw j hj)]

end Sys2Proof.Machine

/-! What the outcome of a command depends on (10_state.md section 2, 43_facade.md sections 1 to 3): the
request registers enter BUILD alone, a response decides the answer of the parsing commands, and a composite
command is PARSE followed by a decode. -/

namespace Sys2Proof.Machine

/-! ### The request registers -/

/-- Other values in FC, REGADDR and REGCOUNT (10_state.md R27 to R29). -/
def State.withRequest (s : State) (f : Byte) (a c : Half) : State :=
  { s with fc := f, regAddr := a, regCount := c }

section
variable {f : Byte} {a c : Half}

theorem State.buf_withRequest (s : State) (b : Buf) : (s.withRequest f a c).buf b = s.buf b := by
  cases b <;> rfl

theorem memRead_withRequest {i : Instr} {s : State} {b : Buf} {n : Nat}
    {k k' : List Byte → Result}
    (h : ∀ l, k' l = mapNext (fun t => t.withRequest f a c) (k l)) :
    memRead i (s.withRequest f a c) b n k' =
      mapNext (fun t => t.withRequest f a c) (memRead i s b n k) := by
  unfold memRead
  rw [s.buf_withRequest b]
  cases Memory.readBytes (s.buf b) 0 n with
  | ok l => exact h l
  | error j => rfl

theorem readResponse_withRequest {i : Instr} {s : State} {k k' : Response → Result}
    (h : ∀ p, k' p = mapNext (fun t => t.withRequest f a c) (k p)) :
    readResponse i (s.withRequest f a c) k' =
      mapNext (fun t => t.withRequest f a c) (readResponse i s k) := by
  have hafter (e : Except Raised Response) : afterParse (s.withRequest f a c) k' e =
      mapNext (fun t => t.withRequest f a c) (afterParse s k e) := by
    cases e with
    | error e => rfl
    | ok p => exact h p
  unfold readResponse
  rw [apply_ite (mapNext _), apply_ite (mapNext _), ← memRead_withRequest fun _ => hafter _]
  rfl

theorem readPayload_withRequest {i : Instr} {s : State} {n : Nat} {k k' : List Byte → Result}
    (h : ∀ l, k' l = mapNext (fun t => t.withRequest f a c) (k l)) :
    readPayload i n (s.withRequest f a c) k' =
      mapNext (fun t => t.withRequest f a c) (readPayload i n s k) := by
  unfold readPayload
  rw [apply_ite (mapNext _), apply_ite (mapNext _), ← memRead_withRequest h]
  rfl

theorem decodeResponse_withRequest {n : Nat} {value : List Byte → Int} {d : Byte} {s : State}
    (p : Response) : decodeResponse n value d (s.withRequest f a c) p =
      mapNext (fun t => t.withRequest f a c) (decodeResponse n value d s p) := by
  unfold decodeResponse
  dsimp only
  rw [apply_ite (mapNext _)]
  rfl

theorem exec_withRequest {i : Instr} (hi : i ≠ .build) (s : State) :
    exec i (s.withRequest f a c) = mapNext (fun t => t.withRequest f a c) (exec i s) := by
  cases i with
  | build => exact absurd rfl hi
  | crc =>
    rw [exec_crc, exec_crc, execCrc, execCrc, apply_ite (mapNext _),
      ← memRead_withRequest fun _ => rfl]
    rfl
  | crcApp =>
    rw [exec_crcApp, exec_crcApp, execCrcApp, execCrcApp, apply_ite (mapNext _),
      ← memRead_withRequest fun _ => rfl]
    rfl
  | crcChk =>
    rw [exec_crcChk, exec_crcChk, execCrcChk, execCrcChk, apply_ite (mapNext _),
      apply_ite (mapNext _), ← memRead_withRequest fun _ => (apply_ite (mapNext _) _ _ _).symm]
    rfl
  | parse => exact readResponse_withRequest fun _ => rfl
  | swap =>
    rw [exec_swap, exec_swap, execSwap, execSwap, apply_ite (mapNext _), apply_ite (mapNext _),
      ← memRead_withRequest fun _ => rfl]
    rfl
  | dec16 d sg bo =>
    rw [exec_dec16, exec_dec16, execDec16, execDec16, apply_ite (mapNext _),
      ← readPayload_withRequest fun _ => rfl]
    rfl
  | dec32 d sg bo => exact readPayload_withRequest fun _ => rfl
  | rdec16 d sg bo =>
    rw [exec_rdec16, exec_rdec16, execRdec16, execRdec16, apply_ite (mapNext _),
      ← readResponse_withRequest decodeResponse_withRequest]
    rfl
  | rdec32 d sg bo => exact readResponse_withRequest decodeResponse_withRequest

end

/-- Settles O39: no operation that the other commands share reads these registers. -/
theorem requestRegistersMatterToBuildOnly : Obligations.RequestRegistersMatterToBuildOnly := by
  unfold Obligations.RequestRegistersMatterToBuildOnly
  exact fun i s f a c hi => exec_withRequest hi s

/-! ### The answer to a response -/

theorem Memory.readBytes_congr {m m' : Memory} {i n : Nat}
    (h : ∀ j, j < i + n → Memory.read m j = Memory.read m' j) :
    Memory.readBytes m i n = Memory.readBytes m' i n := by
  induction n generalizing i with
  | zero => rfl
  | succ n ih =>
    rw [Memory.readBytes, Memory.readBytes, h i (by omega), ih fun j hj => h j (by omega)]

/-- The second outcome answers as the first: the same fault, or the same ERR and DIAG and, on success,
the same payload, CRC and, from a decode, result (43_facade.md section 3). -/
def SameAnswer (i : Instr) (r q : Result) : Prop :=
  (∀ f, r = .fault f → q = .fault f) ∧
    ∀ t, r = .next t →
      ∃ v, q = .next v ∧ v.err = t.err ∧ v.expv = t.expv ∧ v.rcvv = t.rcvv ∧
        (t.err = 0 →
          v.plen = t.plen ∧ v.crcv = t.crcv ∧
            (∀ j, j < t.plen.toNat → Memory.read v.pbuf j = Memory.read t.pbuf j) ∧
            (i ≠ .parse → v.rval = t.rval ∧ v.rdec = t.rdec ∧ v.rkind = t.rkind))

theorem SameAnswer.fault (i : Instr) (f : Fault) : SameAnswer i (.fault f) (.fault f) :=
  ⟨fun _ h => h, nofun⟩

theorem SameAnswer.raise {i : Instr} {s u : State} {e : ErrCode} {x y : Half} (he : e ≠ .ok) :
    SameAnswer i (Machine.raise s e x y) (Machine.raise u e x y) := by
  refine ⟨nofun, ?_⟩
  rintro _ ⟨⟩
  exact ⟨_, raise_eq .., rfl, rfl, rfl, fun h0 => absurd h0 (ErrCode.code_ne_zero he)⟩

/-- Two successes that write the same payload, CRC and, in a decode, result. -/
theorem SameAnswer.succeed {i : Instr} {s u : State} {p : List Byte} {m m' : Memory}
    (hs : s.pbuf = Memory.writeBytes m 0 p ∧ s.plen = half p.length)
    (hu : u.pbuf = Memory.writeBytes m' 0 p ∧ u.plen = half p.length) (hcrc : u.crcv = s.crcv)
    (hres : i ≠ .parse → u.rval = s.rval ∧ u.rdec = s.rdec ∧ u.rkind = s.rkind) :
    SameAnswer i (Machine.succeed s) (Machine.succeed u) := by
  obtain ⟨hspbuf, hsplen⟩ := hs
  obtain ⟨hupbuf, huplen⟩ := hu
  have hbytes (j : Nat) (hj : j < s.plen.toNat) :
      Memory.read u.pbuf j = Memory.read s.pbuf j := by
    have hjp : j < p.length := by
      rw [hsplen] at hj
      exact hj.trans_le (Nat.mod_le _ _)
    rw [hupbuf, hspbuf, Memory.read_writeBytes_lt _ _ hjp, Memory.read_writeBytes_lt _ _ hjp]
  refine ⟨nofun, ?_⟩
  rintro _ ⟨⟩
  exact ⟨_, succeed_eq _, rfl, rfl, rfl,
    fun _ => ⟨huplen.trans hsplen.symm, hcrc, hbytes, hres⟩⟩

/-- The parser's errors are errors (R142). -/
theorem parseResponse_error {raw : List Byte} {ea : Byte} {e : Raised}
    (h : parseResponse raw ea = .error e) : e.error ≠ .ok := by
  simp only [parseResponse] at h
  split at h
  case isTrue => cases h; exact nofun
  case isFalse =>
  split at h
  case isTrue => cases h; exact nofun
  case isFalse =>
  split at h
  case isTrue => cases h; exact nofun
  case isFalse => cases h

/-- The front half of the parsing commands finds the same response, or ends in the same way (R142). -/
theorem SameAnswer.readResponse {i : Instr} {s u : State} {k k' : Response → Result}
    (hparams : s.params = u.params) (hslave : s.slave = u.slave) (hilen : s.ilen = u.ilen)
    (hbytes : ∀ j, j < s.ilen.toNat → Memory.read s.ibuf j = Memory.read u.ibuf j)
    (hk : ∀ p, SameAnswer i (k p) (k' p)) :
    SameAnswer i (Machine.readResponse i s k) (Machine.readResponse i u k') := by
  have hread : Memory.readBytes s.ibuf 0 s.ilen.toNat = Memory.readBytes u.ibuf 0 s.ilen.toNat :=
    Memory.readBytes_congr fun j hj => hbytes j (by omega)
  unfold Machine.readResponse
  rw [← hparams, ← hslave, ← hilen]
  split
  case isTrue => exact .raise (by decide)
  case isFalse =>
  split
  case isTrue => exact .raise (by decide)
  case isFalse =>
  unfold memRead
  rw [State.buf_ibuf, State.buf_ibuf, ← hread]
  cases Memory.readBytes s.ibuf 0 s.ilen.toNat with
  | error j => exact .fault i _
  | ok raw =>
    change SameAnswer i (afterParse s k (parseResponse raw s.slave))
      (afterParse u k' (parseResponse raw s.slave))
    cases hp : parseResponse raw s.slave with
    | ok p => exact hk p
    | error e => exact .raise (parseResponse_error hp)

theorem SameAnswer.decodeResponse {i : Instr} {s u : State} {n : Nat} {value : List Byte → Int}
    {d : Byte} (hparams : s.params = u.params) (p : Response) :
    SameAnswer i (Machine.decodeResponse n value d s p)
      (Machine.decodeResponse n value d u p) := by
  unfold Machine.decodeResponse
  rw [← hparams]
  dsimp only
  split
  case isTrue => exact .raise (by decide)
  case isFalse => exact .succeed ⟨rfl, rfl⟩ ⟨rfl, rfl⟩ rfl fun _ => ⟨rfl, rfl, rfl⟩

/-- Settles O40: the front half reads SLAVE, ILEN and IBUF alone, and what follows is given the response
and reads the parameters alone. -/
theorem responsesDecideTheResult : Obligations.ResponsesDecideTheResult := by
  unfold Obligations.ResponsesDecideTheResult
  intro i s u hi hparams hslave hilen hbytes
  change SameAnswer i (exec i s) (exec i u)
  rcases hi with rfl | ⟨d, sg, bo, rfl⟩ | ⟨d, sg, bo, rfl⟩
  · exact .readResponse hparams hslave hilen hbytes fun p =>
      .succeed ⟨rfl, rfl⟩ ⟨rfl, rfl⟩ rfl fun h => absurd rfl h
  · rw [exec_rdec16, exec_rdec16, execRdec16, execRdec16]
    split
    case isTrue => exact .raise (by decide)
    case isFalse => exact .readResponse hparams hslave hilen hbytes (.decodeResponse hparams)
  · exact .readResponse hparams hslave hilen hbytes (.decodeResponse hparams)

/-! ### Composite commands -/

/-- The block after PARSE of a good response (42_frame.md R143). -/
def State.parsed (s : State) : State := s.putResponse.record .ok 0 0

theorem exec_parse_parsed {s : State} (hg : GoodResponse s) : exec .parse s = .next s.parsed :=
  exec_parse_good hg

theorem toNat_plen_parsed {s : State} (h4 : 4 ≤ s.ilen.toNat) :
    s.parsed.plen.toNat = (responseOf s).payload.length := by
  have hilen := s.ilen.isLt
  have hlen := length_responseOf s h4
  exact toNat_half (by omega)

/-- The payload of a good response, read back from PBUF after PARSE (42_frame.md R143). -/
theorem prefixOf_parsed {s : State} {n : Nat} (hn : (responseOf s).payload.length = n) :
    prefixOf s.parsed.pbuf n = (responseOf s).payload ∧ Written s.parsed.pbuf n := by
  have hread (j : Nat) (hj : j < (responseOf s).payload.length) :
      Memory.read s.parsed.pbuf j = (responseOf s).payload[j]? :=
    Memory.read_writeBytes_lt _ _ hj
  exact ⟨hn ▸ prefixOf_of_reads hread, hn ▸ written_of_reads hread⟩

/-- The back half of a composite command that skips nothing (43_facade.md R160). -/
theorem decodeResponse_of_skip_zero {s : State} {n : Nat} {value : List Byte → Int} {d : Byte}
    (hskip : s.params.payloadSkip = 0) :
    decodeResponse n value d s (responseOf s) =
      if (responseOf s).payload.length = n then
        .next ((s.parsed.putResult (value (responseOf s).payload) d).record .ok 0 0)
      else .next (s.failed 4 (half n) (half (responseOf s).payload.length)) := by
  rw [decodeResponse, hskip, Nat.add_zero]
  by_cases hn : (responseOf s).payload.length = n
  · rw [if_pos hn, if_neg (not_not.2 hn), slice, List.drop_zero, Nat.zero_add,
      List.take_of_length_le hn.le]
    rfl
  · rw [if_neg hn]
    exact if_pos hn

/-- A decode after PARSE of a good response (41_codec.md R126, R127). -/
theorem readPayload_parsed {s : State} {j : Instr} {n : Nat} {k : List Byte → Result}
    (hg : GoodResponse s) :
    readPayload j n s.parsed k =
      if (responseOf s).payload.length = n then k (responseOf s).payload
      else .next (s.parsed.failed 4 (half n) (half (responseOf s).payload.length)) := by
  obtain ⟨h4, hcap, -⟩ := hg
  have hlen := length_responseOf s h4
  have hplen := toNat_plen_parsed h4
  have hfits : s.parsed.plen.toNat ≤ s.parsed.params.bufCap := by
    rw [hplen, hlen]
    exact (Nat.sub_le _ _).trans hcap
  by_cases hn : (responseOf s).payload.length = n
  · obtain ⟨hprefix, hwritten⟩ := prefixOf_parsed hn
    rw [if_pos hn, readPayload_written hfits (hplen.trans hn) hwritten, hprefix]
  · rw [if_neg hn]
    exact readPayload_length hfits (hplen.trans_ne hn)

/-- On a bad response the front half ends in the same error, or in a fault, whatever command it belongs to
(42_frame.md R142, R143). -/
theorem readResponse_bad {s : State} (hg : ¬ GoodResponse s) :
    (∃ e x y, e ≠ .ok ∧ ∀ i k, readResponse i s k = .next (s.failed (ErrCode.code e) x y)) ∨
      ∀ i k, ∃ f, readResponse i s k = .fault f := by
  by_cases hcap : s.ilen.toNat ≤ s.params.bufCap
  case neg =>
    exact .inl ⟨.capacityError, _, _, by decide, fun _ _ => if_pos (not_le.1 hcap)⟩
  by_cases h4 : 4 ≤ s.ilen.toNat
  case neg =>
    exact .inl ⟨.tooShort, _, _, by decide, fun _ _ =>
      (if_neg (not_lt.2 hcap)).trans (if_pos (not_le.1 h4))⟩
  by_cases hw : Written s.ibuf s.ilen.toNat
  case neg =>
    simp only [Written, not_forall, Bool.not_eq_true, Option.isSome_eq_false_iff,
      Option.isNone_iff_eq_none] at hw
    obtain ⟨j, hj, hn⟩ := hw
    refine .inr fun i k => ?_
    rw [readResponse_eq_memRead i k h4 hcap]
    obtain ⟨m, hm⟩ := memRead_fault (b := .ibuf) i _ hj hn
    exact ⟨_, hm⟩
  by_cases hcrc : computedCrc s = receivedCrc s
  case neg =>
    exact .inl ⟨.checksumMismatch, _, _, by decide, fun i k =>
      (readResponse_written i k h4 hcap hw).trans (if_pos hcrc)⟩
  by_cases haddr : byteOf s.ibuf 0 = s.slave
  case neg =>
    exact .inl ⟨.addressMismatch, _, _, by decide, fun i k =>
      (readResponse_written i k h4 hcap hw).trans ((if_neg (not_not.2 hcrc)).trans (if_pos haddr))⟩
  exact absurd ⟨h4, hcap, hw, hcrc, haddr⟩ hg

/-- A composite command and the decode it ends in: the same value of the same number of bytes
(43_facade.md R161, R162). -/
structure CompositeOf (i j : Instr) (n : Nat) (value : List Byte → Int) (d : Byte) : Prop where
  composite : ∀ s, exec i s = readResponse i s (decodeResponse n value d s)
  decode : ∀ m, exec j m = readPayload j n m fun b => succeed (m.putResult (value b) d)

section
variable {i j : Instr} {n : Nat} {value : List Byte → Int} {d : Byte} {s : State}

/-- On a good response PARSE and then the decode succeed with the composite's state, or the decode fails
with the composite's ERR and DIAG (43_facade.md section 3). -/
theorem CompositeOf.good (h : CompositeOf i j n value d) (hskip : s.params.payloadSkip = 0)
    (hg : GoodResponse s) :
    ∃ u, exec j s.parsed = .next u ∧
      (u.err = 0 ∧ exec i s = .next u ∨
        u.err ≠ 0 ∧ exec i s = .next (s.failed u.err u.expv u.rcvv)) := by
  rw [h.composite, h.decode, readResponse_good hg, decodeResponse_of_skip_zero hskip,
    readPayload_parsed hg]
  by_cases hn : (responseOf s).payload.length = n
  · rw [if_pos hn, if_pos hn]
    exact ⟨_, succeed_eq _, .inl ⟨rfl, rfl⟩⟩
  · rw [if_neg hn, if_neg hn]
    exact ⟨_, rfl, .inr ⟨(by decide : (4 : BitVec 4) ≠ 0), rfl⟩⟩

/-- On a bad response the composite command and PARSE end alike, and neither succeeds. -/
theorem CompositeOf.bad (h : CompositeOf i j n value d) (hg : ¬ GoodResponse s) (t : State) :
    (exec i s = .next t ↔ exec .parse s = .next t) ∧ (exec .parse s = .next t → t.err ≠ 0) := by
  rw [h.composite, exec_parse, execParse]
  rcases readResponse_bad hg with ⟨e, x, y, he, hall⟩ | hall
  · rw [hall, hall]
    refine ⟨Iff.rfl, ?_⟩
    rintro ⟨⟩
    exact ErrCode.code_ne_zero he
  · obtain ⟨f, hf⟩ := hall i (decodeResponse n value d s)
    obtain ⟨f', hf'⟩ := hall .parse fun p => succeed ((s.putPayload p.payload).putCrc p.crc)
    rw [hf, hf']
    exact ⟨⟨nofun, nofun⟩, nofun⟩

theorem CompositeOf.success_iff (h : CompositeOf i j n value d)
    (hskip : s.params.payloadSkip = 0) (t : State) :
    (exec i s = .next t ∧ t.err = 0) ↔
      ∃ m, exec .parse s = .next m ∧ m.err = 0 ∧ exec j m = .next t ∧ t.err = 0 := by
  by_cases hg : GoodResponse s
  · obtain ⟨u, hu, hcase⟩ := h.good hskip hg
    rw [exec_parse_parsed hg]
    constructor
    · rintro ⟨hi, ht⟩
      rcases hcase with ⟨-, hiu⟩ | ⟨hne, hiu⟩
      · cases hiu.symm.trans hi
        exact ⟨_, rfl, rfl, hu, ht⟩
      · cases hiu.symm.trans hi
        exact absurd ht hne
    · rintro ⟨m, ⟨⟩, -, hjt, ht⟩
      cases hu.symm.trans hjt
      rcases hcase with ⟨-, hiu⟩ | ⟨hne, -⟩
      · exact ⟨hiu, ht⟩
      · exact absurd ht hne
  · refine ⟨fun ⟨hi, ht⟩ => ?_, fun ⟨m, hp, hm, _⟩ => absurd hm ((h.bad hg m).2 hp)⟩
    exact absurd ht ((h.bad hg t).2 ((h.bad hg t).1.1 hi))

theorem CompositeOf.failure_iff (h : CompositeOf i j n value d)
    (hskip : s.params.payloadSkip = 0) (t : State) :
    (exec i s = .next t ∧ t.err ≠ 0) ↔
      (exec .parse s = .next t ∧ t.err ≠ 0) ∨
        ∃ m u, exec .parse s = .next m ∧ m.err = 0 ∧ exec j m = .next u ∧ u.err ≠ 0 ∧
          t = s.failed u.err u.expv u.rcvv := by
  by_cases hg : GoodResponse s
  · obtain ⟨u, hu, hcase⟩ := h.good hskip hg
    rw [exec_parse_parsed hg]
    constructor
    · rintro ⟨hi, ht⟩
      rcases hcase with ⟨h0, hiu⟩ | ⟨hne, hiu⟩
      · cases hiu.symm.trans hi
        exact absurd h0 ht
      · cases hiu.symm.trans hi
        exact .inr ⟨_, u, rfl, rfl, hu, hne, rfl⟩
    · rintro (⟨⟨⟩, ht⟩ | ⟨m, u', ⟨⟩, -, hju, hne, rfl⟩)
      · exact absurd rfl ht
      · cases hu.symm.trans hju
        rcases hcase with ⟨h0, -⟩ | ⟨-, hiu⟩
        · exact absurd h0 hne
        · exact ⟨hiu, hne⟩
  · rw [(h.bad hg t).1]
    exact ⟨.inl, fun hr => hr.resolve_right fun ⟨m, _, hp, hm, _⟩ =>
      absurd hm ((h.bad hg m).2 hp)⟩

end

/-- Settles O41: a composite command and PARSE share their front half, and the decode finds in PBUF the
payload that the composite command decodes. -/
theorem compositeIsParseThenDecode : Obligations.CompositeIsParseThenDecode := by
  unfold Obligations.CompositeIsParseThenDecode
  intro s d sg bo _ hskip i j hij
  obtain ⟨n, value, h⟩ : ∃ n value, CompositeOf i j n value d := by
    rcases hij with ⟨hbo, rfl, rfl⟩ | ⟨rfl, rfl⟩
    · exact ⟨2, _, exec_rdec16_of_not_swaps d sg hbo, exec_dec16_of_not_swaps d sg hbo⟩
    · exact ⟨4, _, exec_rdec32 d sg bo, exec_dec32 d sg bo⟩
  exact ⟨h.success_iff hskip, h.failure_iff hskip⟩

end Sys2Proof.Machine
